-- ==== Sys2Proof/Word.lean ====
section
/-! DEFINITION. The plain value types of K1PA: bus and command words, 256-bit values, register indices and the two
one-bit selectors a command may carry (`00_scope.md` R9, `30_encoding.md` R81, R83). -/

namespace Sys2Proof

/-- A 32-bit word of the host bus, which is also the width of a command word (R5, R80). -/
abbrev Word := BitVec 32

/-- A value in u256 (R9): the contents of a K register or of a coordinate of a Q register. -/
abbrev U256 := BitVec 256

/-- The number of an integer register K0..K7 (R22, R83). -/
abbrev KIdx := Fin 8

/-- The number of a point register Q0..Q7 (R25, R83). A K and a Q field of one number name different registers (R89). -/
abbrev QIdx := Fin 8

/-- The F bit of MODINV (R83): F = 0 selects the group order n, F = 1 the field modulus p. -/
inductive Modulus where
  | n
  | p
  deriving DecidableEq, Repr

/-- The F bit of DECOMP (R83): F = 0 selects the even root, F = 1 the odd one. -/
inductive Parity where
  | even
  | odd
  deriving DecidableEq, Repr

end Sys2Proof
end

