-- ==== Sys2Proof/Machine/State.lean ====
section
/-! DEFINITION. The state of K1PA (`10_state.md`), the host accesses and inputs that reach it (`20_memory.md`,
`70_reset_and_hazards.md`), the reasons a step can stop, and the state after reset (R43). -/

namespace Sys2Proof.Machine

/-- The values of STATUS.ERR, R190. Codes 8 to 15 are never produced and have no term (log 19). -/
inductive ErrCode where
  | noError
  | illop
  | rsvd
  | notinit
  | undef
  | ecurve
  | noinv
  | overrun
  deriving DecidableEq, Repr

/-- A point register, R25: `inf = true` means it holds O and its x and y are ignored. -/
structure PointReg where
  inf : Bool
  x   : U256
  y   : U256
  deriving DecidableEq, Repr

/-- An access a host makes: its width in bytes, its host-bus address and, for a write, its data. Only 32-bit accesses
are ever accepted (R61), so no other width's data reaches a register and 32 bits of data are enough. Log 14. -/
inductive Access where
  | read (bytes addr : Nat)
  | write (bytes addr : Nat) (data : Word)
  deriving DecidableEq, Repr

/-- What the block receives, one at a time and in order (R7, R68, R201, R230). -/
inductive Event where
  /-- one atomic step of HOST -/
  | host (a : Access)
  /-- ENGINE's turn: it completes the command in flight, if there is one (R7, R197) -/
  | engine
  /-- the platform asserts the reset input (R230) -/
  | assertReset
  /-- the platform releases the reset input (R230) -/
  | releaseReset
  deriving DecidableEq, Repr

/-- The state of the block. The fields down to `resetLine` are the spec's; the last four are the model's own and hold
what stands outside the block: where it is placed, what it is still to receive, what its reads returned. -/
structure State where
  /-- K0..K7 (R22) -/
  k : Vector U256 8
  /-- KV[0..7] (R23) -/
  kv : Vector Bool 8
  /-- Q0..Q7 (R25) -/
  q : Vector PointReg 8
  /-- QV[0..7] (R23) -/
  qv : Vector Bool 8
  /-- STATUS.DONE (R30) -/
  done : Bool
  /-- STATUS.NONE (R31) -/
  flagNone : Bool
  /-- STATUS.INF (R32) -/
  flagInf : Bool
  /-- STATUS.EQ (R33) -/
  flagEq : Bool
  /-- STATUS.READY (R35) -/
  ready : Bool
  /-- STATUS.ERR (R37, R190) -/
  err : ErrCode
  /-- ERRCMD (R37) -/
  errCmd : Word
  /-- LASTCMD (R36) -/
  lastCmd : Word
  /-- CTRL.IE (R38) -/
  ie : Bool
  /-- INFLIGHT (R40) and STATUS.BUSY (R30) in one: `none` is BUSY = 0, when INFLIGHT has no meaning. Log 10. -/
  inflight : Option Word
  /-- the reset input is asserted (R230) -/
  resetLine : Bool
  /-- BASE / 0x800: the OPEN parameter BASE of R6, which no step changes. Log 5. -/
  window : Nat
  /-- the inputs still to arrive, oldest first. Log 1. -/
  events : List Event
  /-- the data the accepted reads returned to the host, oldest first. Log 8. -/
  returned : List Word
  /-- how many unspecified values have been drawn (R65). Log 3. -/
  draws : Nat
  deriving DecidableEq, Repr

/-- Why a step stops with a fault. -/
inductive Fault where
  /-- R61: an access that is not a 32-bit one at a 4-aligned offset below 0x800. Raised by the host's access
  (`hostAccess`); "a model treats such an access as a host fault BUSERR". Safe: the block would go on unchanged. Log 6. -/
  | busErr
  deriving DecidableEq, Repr

/-- Why a step is refused. -/
inductive Refusal where
  /-- An instruction with no meaning yet, by its mnemonic. Raised by no arm of `exec`. Safe. -/
  | notModelled (mnemonic : String)
  /-- ENGINE's turn with an INFLIGHT word that is no command. Raised by `engineTurn` in states no run reaches, since only
  a decoded word is started (R193, R196); the spec gives such a state no meaning. Safe. Log 10. -/
  | inflightNotACommand (w : Word)
  deriving DecidableEq, Repr

/-- A Q register at reset and after CLR: inf 0, x 0, y 0 (R43, R172). -/
def PointReg.zero : PointReg := ⟨false, 0, 0⟩

/-- The machine after reset: every value of R43, the reset input released (R230). The model's own fields hold what the
log names: no events, nothing returned, BASE = 0 (logs 1, 3, 5, 8). -/
def State.reset : State where
  k := Vector.replicate 8 0
  kv := Vector.replicate 8 false
  q := Vector.replicate 8 PointReg.zero
  qv := Vector.replicate 8 false
  done := false
  flagNone := false
  flagInf := false
  flagEq := false
  ready := false
  err := .noError
  errCmd := 0
  lastCmd := 0
  ie := false
  inflight := none
  resetLine := false
  window := 0
  events := []
  returned := []
  draws := 0

end Sys2Proof.Machine
end

