-- ==== Sys2Proof/Machine/Flags.lean ====
section
/-! DEFINITION. STATUS, CTRL and the interrupt output (`10_state.md` R30 to R39, `20_memory.md` R52). -/

namespace Sys2Proof.Machine

/-- STATUS.BUSY (R30): a command is in flight. -/
def State.busy (s : State) : Bool := s.inflight.isSome

/-- The `irq` output (R39, R200). -/
def State.irq (s : State) : Bool := s.ie && s.done

/-- The three result flags, rewritten by every successful command (R31 to R33, D21). -/
def setFlags (none inf eq : Bool) (s : State) : State := { s with flagNone := none, flagInf := inf, flagEq := eq }

/-- READY <- 1 (R35, R100). -/
def setReady (s : State) : State := { s with ready := true }

/-- The code of an error, R190. -/
def ErrCode.code : ErrCode → Nat
  | .noError => 0
  | .illop => 1
  | .rsvd => 2
  | .notinit => 3
  | .undef => 4
  | .ecurve => 5
  | .noinv => 6
  | .overrun => 7

/-- A field of one bit at bit i of a word. -/
def bitAt (b : Bool) (i : Nat) : Word := (BitVec.ofBool b).setWidth 32 <<< i

/-- A STATUS read (R52): ERR << 8 | READY << 5 | EQ << 4 | INF << 3 | NONE << 2 | DONE << 1 | BUSY. -/
def statusWord (s : State) : Word :=
  (BitVec.ofNat 32 s.err.code <<< 8) ||| bitAt s.ready 5 ||| bitAt s.flagEq 4 ||| bitAt s.flagInf 3 |||
    bitAt s.flagNone 2 ||| bitAt s.done 1 ||| bitAt s.busy 0

/-- ERR <- 0, the only "return" from an error (R198). ERRCMD keeps its word. -/
def clearErr (s : State) : State := { s with err := .noError }

/-- DONE <- 0 (R200). -/
def clearDone (s : State) : State := { s with done := false }

/-- A STATUS write of v (R52): bit 1 clears DONE, bit 31 (ERRCLR) clears ERR, and nothing else. -/
def writeStatus (v : Word) (s : State) : State :=
  let s1 := if v.getLsbD 1 then clearDone s else s
  if v.getLsbD 31 then clearErr s1 else s1

/-- A CTRL write (R52): bit 0 is IE, the rest is reserved. -/
def writeCtrl (v : Word) (s : State) : State := { s with ie := v.getLsbD 0 }

/-- The eight tags of one file as bits 7:0 (R55). -/
def tagBits (t : Vector Bool 8) : Word :=
  bitAt t[0] 0 ||| bitAt t[1] 1 ||| bitAt t[2] 2 ||| bitAt t[3] 3 ||| bitAt t[4] 4 ||| bitAt t[5] 5 ||| bitAt t[6] 6 |||
    bitAt t[7] 7

/-- A VALID read (R55): KV[i] at bit i, QV[i] at bit 8 + i. -/
def validWord (s : State) : Word := tagBits s.kv ||| (tagBits s.qv <<< 8)

end Sys2Proof.Machine
end

