-- ==== Sys2Proof/Syntax.lean ====
section
/-! DEFINITION. The commands of K1PA, one constructor per row of `opcode_table.json` (`30_encoding.md` R84). -/

namespace Sys2Proof

/-- The 14 commands. Operands stand in the assembler's order D, A, B, C, E, F (R90). The type of an operand is the file
its field names (R82), so a register of the wrong file in an operand position has no term, as R90 has no encoding for it. -/
inductive Instr where
  /-- R170: no operation. -/
  | nop
  /-- R100: initialise the curve parameters. -/
  | init
  /-- R172: zeroise every data register. -/
  | clr
  /-- R104: load the generator. -/
  | ldg (d : QIdx)
  /-- R107: load the group order. -/
  | ldn (d : KIdx)
  /-- R176: copy an integer register. -/
  | movk (d a : KIdx)
  /-- R180: copy a point register. -/
  | movq (d a : QIdx)
  /-- R120: modular inverse. -/
  | modinv (d a : KIdx) (m : Modulus)
  /-- R138: point decompression. -/
  | decomp (d : QIdx) (a : KIdx) (f : Parity)
  /-- R144: point addition. -/
  | padd (d a b : QIdx)
  /-- R148: point doubling. -/
  | pdbl (d a : QIdx)
  /-- R152: scalar multiplication. -/
  | smul (d : QIdx) (a : KIdx) (b : QIdx)
  /-- R156: combined double-scalar multiplication. -/
  | dsmul (d : QIdx) (a : KIdx) (b : QIdx) (c : KIdx) (e : QIdx)
  /-- R160: point equality. -/
  | peq (a b : QIdx)
  deriving DecidableEq, Repr

end Sys2Proof
end

