-- ==== Sys2Proof/WellFormed.lean ====
section
/-! DEFINITION. When the fields of a command word are a command's (`30_encoding.md` R81, R82, R88), and when a line of
assembler has the operands its mnemonic takes (R90). The decoder does not use these: it follows the match and mask
columns of R84, and that the two agree is a statement. -/

namespace Sys2Proof

/-- The fields of a command word, R81. -/
structure Fields where
  opc : BitVec 8
  d   : BitVec 3
  a   : BitVec 3
  b   : BitVec 3
  c   : BitVec 3
  e   : BitVec 3
  f   : BitVec 1
  rsv : BitVec 8
  deriving DecidableEq, Repr

/-- The operand formats of R82 (Dk and Dq use the same fields). -/
inductive Format where
  | z
  | d
  | da
  | daf
  | dab
  | dabce
  | ab
  deriving DecidableEq, Repr

/-- Does the format use D, A, B, C, E, F (R82)? -/
def Format.usesD : Format → Bool
  | .z | .ab => false
  | .d | .da | .daf | .dab | .dabce => true

def Format.usesA : Format → Bool
  | .z | .d => false
  | .da | .daf | .dab | .dabce | .ab => true

def Format.usesB : Format → Bool
  | .z | .d | .da | .daf => false
  | .dab | .dabce | .ab => true

def Format.usesCE : Format → Bool
  | .z | .d | .da | .daf | .dab | .ab => false
  | .dabce => true

def Format.usesF : Format → Bool
  | .z | .d | .da | .dab | .dabce | .ab => false
  | .daf => true

/-- The format of an opcode, R82 and R84; `none` for the illegal opcodes of R87. -/
def formatOf (opc : BitVec 8) : Option Format :=
  if opc = 0x00 ∨ opc = 0x01 ∨ opc = 0x02 then some .z
  else if opc = 0x08 ∨ opc = 0x09 then some .d
  else if opc = 0x0A ∨ opc = 0x0B ∨ opc = 0x22 then some .da
  else if opc = 0x10 ∨ opc = 0x20 then some .daf
  else if opc = 0x21 ∨ opc = 0x23 then some .dab
  else if opc = 0x24 then some .dabce
  else if opc = 0x25 then some .ab
  else none

/-- R88: RSV is 0 and so is every field the format does not use. -/
def Fields.respects (fs : Fields) (fmt : Format) : Bool :=
  fs.rsv == 0 && (fmt.usesD || fs.d == 0) && (fmt.usesA || fs.a == 0) && (fmt.usesB || fs.b == 0) &&
    (fmt.usesCE || fs.c == 0) && (fmt.usesCE || fs.e == 0) && (fmt.usesF || fs.f == 0)

/-- The opcode is in the map (R87) and the reserved bits are zero (R88). Every term of `Instr` has a word whose fields are
well formed: its operand types already exclude a register number above 7 and a register of the wrong file. -/
def Fields.wellFormed (fs : Fields) : Bool :=
  match formatOf fs.opc with
  | none => false
  | some fmt => fs.respects fmt

/-- The operands a line of assembler can hold (R90): registers by file and number, and the words n, p, even, odd. -/
inductive Operand where
  | k (i : KIdx)
  | q (i : QIdx)
  | modulus (m : Modulus)
  | parity (f : Parity)
  deriving DecidableEq, Repr

/-- What an operand position takes (R90). -/
inductive OperandKind where
  | k
  | q
  | modulus
  | parity
  deriving DecidableEq, Repr

def Operand.kind : Operand → OperandKind
  | .k _ => .k
  | .q _ => .q
  | .modulus _ => .modulus
  | .parity _ => .parity

/-- The mnemonics of R90 and the pseudo-commands of R91. -/
inductive Mnemonic where
  | nop | init | clr | ldg | ldn | movk | movq | modinv | decomp | padd | pdbl | smul | dsmul | peq
  | invn | invp | dece | deco | subgrp
  deriving DecidableEq, Repr

/-- The operand positions of each mnemonic, R90 and R91. -/
def Mnemonic.kinds : Mnemonic → List OperandKind
  | .nop | .init | .clr => []
  | .ldg => [.q]
  | .ldn => [.k]
  | .movk => [.k, .k]
  | .movq => [.q, .q]
  | .modinv => [.k, .k, .modulus]
  | .decomp => [.q, .k, .parity]
  | .padd => [.q, .q, .q]
  | .pdbl => [.q, .q]
  | .smul => [.q, .k, .q]
  | .dsmul => [.q, .k, .q, .k, .q]
  | .peq => [.q, .q]
  | .invn | .invp => [.k, .k]
  | .dece | .deco => [.q, .k]
  | .subgrp => [.q, .q, .k]

/-- A line of assembler: a mnemonic and its operands (R90). -/
structure AsmLine where
  mnemonic : Mnemonic
  operands : List Operand
  deriving DecidableEq, Repr

/-- R90: the operands are of the kinds the mnemonic takes, in its order; a register of the wrong file is an error. -/
def AsmLine.wellFormed (l : AsmLine) : Bool := l.operands.map Operand.kind == l.mnemonic.kinds

end Sys2Proof
end

