-- ==== Sys2Proof/Decode.lean ====
section
/-! DEFINITION. Decoding a command word (`30_encoding.md` R84, R86 to R88), encoding a command (R85), and the assembler
with its pseudo-commands (R90, R91). -/

namespace Sys2Proof

/-- The 14 opcodes of the map, R84. -/
inductive Op where
  | nop | init | clr | ldg | ldn | movk | movq | modinv | decomp | padd | pdbl | smul | dsmul | peq
  deriving DecidableEq, Repr

/-- The three outcomes of decoding, R86. -/
inductive Decoded where
  /-- OPC is not in the opcode map (R87): ILLOP. -/
  | illegal
  /-- a legal OPC with RSV or an unused field nonzero (R88): RSVD. -/
  | reserved
  | cmd (i : Instr)
  deriving DecidableEq, Repr

/-- `w[31:24]` and the other fields of R81, R83. -/
def opcOf (w : Word) : BitVec 8 := w.extractLsb' 24 8
def fieldD (w : Word) : Fin 8 := (w.extractLsb' 21 3).toFin
def fieldA (w : Word) : Fin 8 := (w.extractLsb' 18 3).toFin
def fieldB (w : Word) : Fin 8 := (w.extractLsb' 15 3).toFin
def fieldC (w : Word) : Fin 8 := (w.extractLsb' 12 3).toFin
def fieldE (w : Word) : Fin 8 := (w.extractLsb' 9 3).toFin

/-- MODINV's use of the F bit, R83. -/
def fieldModulus (w : Word) : Modulus := if w.getLsbD 8 then .p else .n

/-- DECOMP's use of the F bit, R83. -/
def fieldParity (w : Word) : Parity := if w.getLsbD 8 then .odd else .even

/-- All fields of a word, R81. -/
def fieldsOf (w : Word) : Fields where
  opc := w.extractLsb' 24 8
  d := w.extractLsb' 21 3
  a := w.extractLsb' 18 3
  b := w.extractLsb' 15 3
  c := w.extractLsb' 12 3
  e := w.extractLsb' 9 3
  f := w.extractLsb' 8 1
  rsv := w.extractLsb' 0 8

/-- The opcode map, R84. -/
def lookupOp (opc : BitVec 8) : Option Op :=
  if opc = 0x00 then some .nop
  else if opc = 0x01 then some .init
  else if opc = 0x02 then some .clr
  else if opc = 0x08 then some .ldg
  else if opc = 0x09 then some .ldn
  else if opc = 0x0A then some .movk
  else if opc = 0x0B then some .movq
  else if opc = 0x10 then some .modinv
  else if opc = 0x20 then some .decomp
  else if opc = 0x21 then some .padd
  else if opc = 0x22 then some .pdbl
  else if opc = 0x23 then some .smul
  else if opc = 0x24 then some .dsmul
  else if opc = 0x25 then some .peq
  else none

/-- The `mask` column of R84. -/
def Op.mask : Op → Word
  | .nop => 0xFFFFFFFF
  | .init => 0xFFFFFFFF
  | .clr => 0xFFFFFFFF
  | .ldg => 0xFF1FFFFF
  | .ldn => 0xFF1FFFFF
  | .movk => 0xFF03FFFF
  | .movq => 0xFF03FFFF
  | .modinv => 0xFF03FEFF
  | .decomp => 0xFF03FEFF
  | .padd => 0xFF007FFF
  | .pdbl => 0xFF03FFFF
  | .smul => 0xFF007FFF
  | .dsmul => 0xFF0001FF
  | .peq => 0xFFE07FFF

/-- The `match` column of R84. -/
def Op.pattern : Op → Word
  | .nop => 0x00000000
  | .init => 0x01000000
  | .clr => 0x02000000
  | .ldg => 0x08000000
  | .ldn => 0x09000000
  | .movk => 0x0A000000
  | .movq => 0x0B000000
  | .modinv => 0x10000000
  | .decomp => 0x20000000
  | .padd => 0x21000000
  | .pdbl => 0x22000000
  | .smul => 0x23000000
  | .dsmul => 0x24000000
  | .peq => 0x25000000

/-- The command an opcode and the fields of a word make, R82 and R83. -/
def Op.build (op : Op) (w : Word) : Instr :=
  match op with
  | .nop => .nop
  | .init => .init
  | .clr => .clr
  | .ldg => .ldg (fieldD w)
  | .ldn => .ldn (fieldD w)
  | .movk => .movk (fieldD w) (fieldA w)
  | .movq => .movq (fieldD w) (fieldA w)
  | .modinv => .modinv (fieldD w) (fieldA w) (fieldModulus w)
  | .decomp => .decomp (fieldD w) (fieldA w) (fieldParity w)
  | .padd => .padd (fieldD w) (fieldA w) (fieldB w)
  | .pdbl => .pdbl (fieldD w) (fieldA w)
  | .smul => .smul (fieldD w) (fieldA w) (fieldB w)
  | .dsmul => .dsmul (fieldD w) (fieldA w) (fieldB w) (fieldC w) (fieldE w)
  | .peq => .peq (fieldA w) (fieldB w)

/-- R86: total on every 32-bit word, with the Illegal check before the Reserved check. -/
def decode (w : Word) : Decoded :=
  match lookupOp (opcOf w) with
  | none => .illegal
  | some op => if w &&& op.mask = op.pattern then .cmd (op.build w) else .reserved

/-- A register number in the field whose lowest bit is `lo` (R83). -/
def regBits (r : Fin 8) (lo : Nat) : Word := (BitVec.ofFin r : BitVec 3).setWidth 32 <<< lo

/-- The F bit of MODINV (R83). -/
def modulusBit : Modulus → Word
  | .n => 0
  | .p => 0x100

/-- The F bit of DECOMP (R83). -/
def parityField : Parity → Word
  | .even => 0
  | .odd => 0x100

/-- `OPC << 24 | D << 21 | A << 18 | B << 15 | C << 12 | E << 9` of R85. -/
def enc (opc : BitVec 8) (d a b c e : Fin 8) : Word :=
  (opc.setWidth 32 <<< 24) ||| regBits d 21 ||| regBits a 18 ||| regBits b 15 ||| regBits c 12 ||| regBits e 9

/-- The word of a command, R85, with every unused field 0. -/
def encode : Instr → Word
  | .nop => enc 0x00 0 0 0 0 0
  | .init => enc 0x01 0 0 0 0 0
  | .clr => enc 0x02 0 0 0 0 0
  | .ldg d => enc 0x08 d 0 0 0 0
  | .ldn d => enc 0x09 d 0 0 0 0
  | .movk d a => enc 0x0A d a 0 0 0
  | .movq d a => enc 0x0B d a 0 0 0
  | .modinv d a m => enc 0x10 d a 0 0 0 ||| modulusBit m
  | .decomp d a f => enc 0x20 d a 0 0 0 ||| parityField f
  | .padd d a b => enc 0x21 d a b 0 0
  | .pdbl d a => enc 0x22 d a 0 0 0
  | .smul d a b => enc 0x23 d a b 0 0
  | .dsmul d a b c e => enc 0x24 d a b c e
  | .peq a b => enc 0x25 0 a b 0 0

/-- What the decoder reads from a table word: a command is one 32-bit word (R80), so there are no other lengths. -/
def decodeTableWord (nbits w : Nat) : Option Instr :=
  if nbits ≤ 32 then
    match decode (BitVec.ofNat 32 (w % 2 ^ nbits)) with
    | .illegal => none
    | .reserved => none
    | .cmd i => some i
  else none

/-- R90 and R91: the commands a line stands for, in the order the host writes them; `none` for an assembly error (a
wrong operand has no encoding). -/
def assemble (l : AsmLine) : Option (List Instr) :=
  match l.mnemonic, l.operands with
  | .nop, [] => some [.nop]
  | .init, [] => some [.init]
  | .clr, [] => some [.clr]
  | .ldg, [.q d] => some [.ldg d]
  | .ldn, [.k d] => some [.ldn d]
  | .movk, [.k d, .k a] => some [.movk d a]
  | .movq, [.q d, .q a] => some [.movq d a]
  | .modinv, [.k d, .k a, .modulus m] => some [.modinv d a m]
  | .decomp, [.q d, .k a, .parity f] => some [.decomp d a f]
  | .padd, [.q d, .q a, .q b] => some [.padd d a b]
  | .pdbl, [.q d, .q a] => some [.pdbl d a]
  | .smul, [.q d, .k a, .q b] => some [.smul d a b]
  | .dsmul, [.q d, .k a, .q b, .k c, .q e] => some [.dsmul d a b c e]
  | .peq, [.q a, .q b] => some [.peq a b]
  | .invn, [.k d, .k a] => some [.modinv d a .n]
  | .invp, [.k d, .k a] => some [.modinv d a .p]
  | .dece, [.q d, .k a] => some [.decomp d a .even]
  | .deco, [.q d, .k a] => some [.decomp d a .odd]
  | .subgrp, [.q d, .q a, .k t] => some [.ldn t, .smul d t a]
  | _, _ => none

/-- The spelling of each mnemonic in R90 and R91. -/
def Mnemonic.spelling : Mnemonic → List Char
  | .nop => ['N', 'O', 'P']
  | .init => ['I', 'N', 'I', 'T']
  | .clr => ['C', 'L', 'R']
  | .ldg => ['L', 'D', 'G']
  | .ldn => ['L', 'D', 'N']
  | .movk => ['M', 'O', 'V', 'K']
  | .movq => ['M', 'O', 'V', 'Q']
  | .modinv => ['M', 'O', 'D', 'I', 'N', 'V']
  | .decomp => ['D', 'E', 'C', 'O', 'M', 'P']
  | .padd => ['P', 'A', 'D', 'D']
  | .pdbl => ['P', 'D', 'B', 'L']
  | .smul => ['S', 'M', 'U', 'L']
  | .dsmul => ['D', 'S', 'M', 'U', 'L']
  | .peq => ['P', 'E', 'Q']
  | .invn => ['I', 'N', 'V', 'N']
  | .invp => ['I', 'N', 'V', 'P']
  | .dece => ['D', 'E', 'C', 'E']
  | .deco => ['D', 'E', 'C', 'O']
  | .subgrp => ['S', 'U', 'B', 'G', 'R', 'P']

/-- All mnemonics of R90 and R91. -/
def Mnemonic.all : List Mnemonic :=
  [.nop, .init, .clr, .ldg, .ldn, .movk, .movq, .modinv, .decomp, .padd, .pdbl, .smul, .dsmul, .peq,
    .invn, .invp, .dece, .deco, .subgrp]

/-- R90: mnemonics are case-insensitive. -/
def Mnemonic.ofName (name : List Char) : Option Mnemonic :=
  Mnemonic.all.find? fun m => decide (m.spelling = name.map Char.toUpper)

end Sys2Proof
end

