-- ==== Sys2Proof/Config.lean ====
section
/-! DEFINITION. The values the spec leaves free, as constants with no body: no proof can evaluate one, so a claim holds
whatever they are. -/

namespace Sys2Proof.Config

/-- The word the n-th read of a K or Q window word returns while BUSY = 1: "an unspecified 32-bit value. A model draws it
freely" (`20_memory.md` R65, `93_implementation_defined.md` I1). Log 3. Safe. -/
opaque busyRead : Nat → Word

/-- `inv_m(a)` for a mod m = 0, where R10 defines no inverse, by modulus. No run computes it: MODINV is rejected with
NOINV first (R120, R121) and no on-curve addition divides by 0 (R132, R137). Log 4. Safe. -/
opaque inverseOfZero : Nat → Nat

end Sys2Proof.Config
end

