-- ==== Sys2Proof/Machine/Params.lean ====
section
/-! DEFINITION. The parameter store (`10_state.md` R20, R21) and the identification word (R42): constants, not state. -/

namespace Sys2Proof.Machine

/-- p = 2^256 − 2^32 − 977, the field modulus. -/
def curveP : Nat := 0xFFFFFFFFFFFFFFFFFFFFFFFFFFFFFFFFFFFFFFFFFFFFFFFFFFFFFFFEFFFFFC2F

/-- n, the order of the group. -/
def curveN : Nat := 0xFFFFFFFFFFFFFFFFFFFFFFFFFFFFFFFEBAAEDCE6AF48A03BBFD25E8CD0364141

/-- The x-coordinate of the generator G. -/
def curveGX : Nat := 0x79BE667EF9DCBBAC55A06295CE870B07029BFCDB2DCE28D959F2815B16F81798

/-- The y-coordinate of the generator G. -/
def curveGY : Nat := 0x483ADA7726A3C4655DA4FBFC0E1108A8FD17B448A68554199C47D08FFB10D4B8

/-- a, the coefficient of x. -/
def curveA : Nat := 0

/-- b, the constant coefficient. -/
def curveB : Nat := 7

/-- h, the cofactor. -/
def curveH : Nat := 1

/-- The constant word of ID: "K1" and version 1.0. -/
def idWord : Word := 0x4B310100

/-- The modulus MODINV's F bit selects (R83, R120). -/
def modulusOf : Modulus → Nat
  | .n => curveN
  | .p => curveP

end Sys2Proof.Machine
end

