-- ==== Sys2Proof/Machine/Field.lean ====
section
/-! DEFINITION. Arithmetic modulo p and n on natural numbers (`00_scope.md` R10, `42_point_arithmetic.md` R130, R136).
The spec fixes results, not algorithms (R4 (d), R122; log 11). -/

namespace Sys2Proof.Machine

/-- b^e mod m for e < 16^fuel, one base-16 digit of e at a time. -/
def powModAux (m : Nat) : Nat → Nat → Nat → Nat
  | 0, _, _ => 1 % m
  | fuel + 1, b, e => Nat.pow (powModAux m fuel b (e / 16)) 16 * Nat.pow b (e % 16) % m

/-- b^e mod m for e < 2^256. -/
def powMod (m b e : Nat) : Nat := powModAux m 64 (b % m) e

/-- `inv_m(a)` of R10 for the primes n and p: a^(m−2) mod m is the y in 1..m−1 with (a·y) mod m = 1. R10 defines none for
a mod m = 0, where the value is free (log 4). -/
def modInv (m a : Nat) : Nat := if a % m = 0 then Config.inverseOfZero m else powMod m a (m - 2)

/-- Field subtraction, R130: (a − b) mod P. Sums and products are integer ones, reduced where a coordinate is written. -/
def fSub (a b : Nat) : Nat := (a + (curveP - b % curveP)) % curveP

/-- Division is multiplication by `inv_P` (R130). -/
def fDiv (a b : Nat) : Nat := a * modInv curveP b % curveP

/-- The right side of the curve equation, (x³ + 7) mod P. -/
def curveRhs (x : Nat) : Nat := (x * x * x + curveB) % curveP

/-- R136: c^((P+1)/4) mod P, a root of c when c has one. -/
def rootCandidate (c : Nat) : Nat := powMod curveP c ((curveP + 1) / 4)

/-- The parity a DECOMP asks for, R83: 0 even, 1 odd. -/
def parityBit : Parity → Nat
  | .even => 0
  | .odd => 1

/-- R138, R139: the y of the point with this x and parity; `none` when x ≥ P or x³ + 7 has no root. The roots of c are y0
and P − y0 for the candidate y0, and exactly one has the parity (R136, R137). -/
def decompress (x : Nat) (f : Parity) : Option Nat :=
  if curveP ≤ x then none
  else
    let y0 := rootCandidate (curveRhs x)
    if y0 * y0 % curveP = curveRhs x then
      some (if y0 % 2 = parityBit f then y0 else curveP - y0)
    else none

end Sys2Proof.Machine
end

