-- ==== Sys2Proof/Machine/Curve.lean ====
section
/-! DEFINITION. Curve points and the group law (`00_scope.md` R12, `10_state.md` R26, R28, `42_point_arithmetic.md` R131
to R134). -/

namespace Sys2Proof.Machine

/-- A curve point, R12: O, or (x, y). -/
inductive Point where
  | infinity
  | affine (x y : Nat)
  deriving DecidableEq, Repr

/-- R12: the point a Q register holds. -/
def PointReg.pt (r : PointReg) : Point := if r.inf then .infinity else .affine r.x.toNat r.y.toNat

/-- R26: the canonical triple of a point. -/
def PointReg.ofPoint : Point → PointReg
  | .infinity => ⟨true, 0, 0⟩
  | .affine x y => ⟨false, BitVec.ofNat 256 x, BitVec.ofNat 256 y⟩

/-- (x, y) has both coordinates below P and y² = x³ + 7 mod P (R28). -/
def affineOnCurve (x y : Nat) : Bool := decide (x < curveP) && decide (y < curveP) && decide (y * y % curveP = curveRhs x)

/-- R28 for a point. -/
def Point.onCurve : Point → Bool
  | .infinity => true
  | .affine x y => affineOnCurve x y

/-- R28: `onCurve` of a triple. -/
def PointReg.onCurve (r : PointReg) : Bool := r.inf || affineOnCurve r.x.toNat r.y.toNat

def Point.isInfinity : Point → Bool
  | .infinity => true
  | .affine _ _ => false

/-- R131. -/
def ecNeg : Point → Point
  | .infinity => .infinity
  | .affine x y => .affine x ((curveP - y) % curveP)

/-- The slope of R132: the tangent when x1 = x2, the chord otherwise. -/
def ecSlope (x1 y1 x2 y2 : Nat) : Nat :=
  if x1 = x2 then fDiv (3 * (x1 * x1)) (2 * y1 % curveP) else fDiv (fSub y2 y1) (fSub x2 x1)

/-- x3 and y3 of R132 for a slope. -/
def ecThird (lam x1 y1 x2 : Nat) : Point :=
  let x3 := fSub (fSub (lam * lam) x1) x2
  .affine x3 (fSub (lam * fSub x1 x3) y1)

/-- R132. -/
def ecAdd : Point → Point → Point
  | .infinity, q2 => q2
  | .affine x1 y1, .infinity => .affine x1 y1
  | .affine x1 y1, .affine x2 y2 =>
    if x1 = x2 ∧ (y1 + y2) % curveP = 0 then .infinity else ecThird (ecSlope x1 y1 x2 y2) x1 y1 x2

/-- R133. -/
def ecDbl (q1 : Point) : Point := ecAdd q1 q1

/-- R134, as the spec defines it: k-fold repeated addition. -/
def repeatedAdd : Nat → Point → Point
  | 0, _ => .infinity
  | k + 1, q1 => ecAdd (repeatedAdd k q1) q1

/-- k·Q1 for k < 2^fuel by doubling and adding, from the most significant bit. -/
def ecMulAux : Nat → Nat → Point → Point
  | 0, _, _ => .infinity
  | fuel + 1, k, q1 =>
    let d := ecDbl (ecMulAux fuel (k / 2) q1)
    if k % 2 = 1 then ecAdd d q1 else d

/-- R134 for a u256 scalar. "The definition fixes the value, not the algorithm": on the curve this is `repeatedAdd`
(`Laws.ecMul_eq_repeatedAdd`, log 9). -/
def ecMul (k : Nat) (q1 : Point) : Point := ecMulAux 256 k q1

end Sys2Proof.Machine
end

