-- ==== Sys2Proof/Machine/Operands.lean ====
section
/-! DEFINITION. Reading and writing the register files and their tags (`10_state.md` R22 to R27), and the source operands
of each command (`60_exceptions.md` R192). -/

namespace Sys2Proof.Machine

/-- K[i] (R11). -/
def readK (s : State) (i : KIdx) : U256 := s.k[i]

/-- Q[i] as its raw triple (R11). -/
def readQ (s : State) (i : QIdx) : PointReg := s.q[i]

/-- pt(Q[i]) (R12). -/
def readPt (s : State) (i : QIdx) : Point := (readQ s i).pt

/-- K[d] <- v, with the tag a destination write sets (R23). -/
def writeK (d : KIdx) (v : U256) (s : State) : State := { s with k := s.k.set d v, kv := s.kv.set d true }

/-- A raw triple into Q[d], with its tag (R23). -/
def writeQ (d : QIdx) (r : PointReg) (s : State) : State := { s with q := s.q.set d r, qv := s.qv.set d true }

/-- Q[d] <- a point, in the canonical form of R26. -/
def writePt (d : QIdx) (p : Point) (s : State) : State := writeQ d (PointReg.ofPoint p) s

/-- Every K, Q and tag to 0 (R172). -/
def clearRegs (s : State) : State :=
  { s with
    k := Vector.replicate 8 0
    kv := Vector.replicate 8 false
    q := Vector.replicate 8 PointReg.zero
    qv := Vector.replicate 8 false }

/-- A source register of a command. -/
inductive Src where
  | k (i : KIdx)
  | q (i : QIdx)
  deriving DecidableEq, Repr

/-- The source registers in field order A, B, C, E: "the sources by opcode" of R192. -/
def sources : Instr → List Src
  | .nop => []
  | .init => []
  | .clr => []
  | .ldg _ => []
  | .ldn _ => []
  | .movk _ a => [.k a]
  | .movq _ a => [.q a]
  | .modinv _ a _ => [.k a]
  | .decomp _ a _ => [.k a]
  | .padd _ a b => [.q a, .q b]
  | .pdbl _ a => [.q a]
  | .smul _ a b => [.k a, .q b]
  | .dsmul _ a b c e => [.k a, .q b, .k c, .q e]
  | .peq a b => [.q a, .q b]

/-- tag(s) of R192. -/
def tagOf (s : State) : Src → Bool
  | .k i => s.kv[i]
  | .q i => s.qv[i]

/-- R28 for a source: a K register is never off the curve. -/
def sourceOnCurve (s : State) : Src → Bool
  | .k _ => true
  | .q i => (readQ s i).onCurve

end Sys2Proof.Machine
end

