-- ==== Sys2Proof/Machine/Ops.lean ====
section
/-! DEFINITION. The command lifecycle (`60_exceptions.md` R192 to R198): the acceptance checks, recording an error and
rejecting a command (the block's error entry), starting a command, completing one, and a write to CMD. The return from an
error is `clearErr` in Flags (R198). -/

namespace Sys2Proof.Machine

/-- `record(e, v)` of R194: the first error wins. -/
def record (e : ErrCode) (v : Word) (s : State) : State := if s.err = .noError then { s with err := e, errCmd := v } else s

/-- `reject(e, w)` of R194. -/
def reject (e : ErrCode) (w : Word) (s : State) : State := { record e w s with done := true }

/-- `start(w)` of R196: INFLIGHT, LASTCMD and BUSY; nothing else changes. -/
def start (w : Word) (s : State) : State := { s with inflight := some w, lastCmd := w }

/-- Step (3) of R197: BUSY <- 0 and DONE <- 1. -/
def complete (s : State) : State := { s with inflight := none, done := true }

/-- R192: every command but NOP, INIT and CLR needs READY = 1. -/
def needsReady : Instr → Bool
  | .nop | .init | .clr => false
  | .ldg _ | .ldn _ | .movk _ _ | .movq _ _ | .modinv _ _ _ | .decomp _ _ _ | .padd _ _ _ | .pdbl _ _ | .smul _ _ _
  | .dsmul _ _ _ _ _ | .peq _ _ => true

/-- R192: MODINV of a value that is 0 modulo m. -/
def lacksInverse (s : State) : Instr → Bool
  | .modinv _ a m => (readK s a).toNat % modulusOf m == 0
  | .nop | .init | .clr | .ldg _ | .ldn _ | .movk _ _ | .movq _ _ | .decomp _ _ _ | .padd _ _ _ | .pdbl _ _ | .smul _ _ _
  | .dsmul _ _ _ _ _ | .peq _ _ => false

/-- The checks of R192 on a decoded command, in order; `noError` is OK. -/
def cmdChecks (i : Instr) (s : State) : ErrCode :=
  if !s.ready && needsReady i then .notinit
  else if (sources i).any (fun r => !tagOf s r) then .undef
  else if (sources i).any (fun r => !sourceOnCurve s r) then .ecurve
  else if lacksInverse s i then .noinv
  else .noError

/-- `checks(w)` of R192. -/
def checks (w : Word) (s : State) : ErrCode :=
  match decode w with
  | .illegal => .illop
  | .reserved => .rsvd
  | .cmd i => cmdChecks i s

/-- A write of w to CMD, R193. -/
def cmdWrite (w : Word) (s : State) : State :=
  if s.busy then record .overrun w s
  else if s.err = .noError then
    match checks w s with
    | .noError => start w s
    | .illop => reject .illop w s
    | .rsvd => reject .rsvd w s
    | .notinit => reject .notinit w s
    | .undef => reject .undef w s
    | .ecurve => reject .ecurve w s
    | .noinv => reject .noinv w s
    | .overrun => reject .overrun w s
  else s

/-- What the completion of a command whose result is the point p for Q[d] does (R26, R32, R197): it writes Q[d], the
flags NONE = 0, INF = (p is O), EQ = 0, and completes. -/
def finishPoint (d : QIdx) (p : Point) (s : State) : State :=
  complete (setFlags false p.isInfinity false (writePt d p s))

/-- The same for an integer result for K[d]: the flags are all 0. -/
def finishInt (d : KIdx) (v : U256) (s : State) : State := complete (setFlags false false false (writeK d v s))

end Sys2Proof.Machine
end

