-- ==== Sys2Proof/Machine/Control.lean ====
section
/-! DEFINITION. The control and data-movement commands at completion (`43_control.md`): NOP, CLR, MOVK, MOVQ. -/

namespace Sys2Proof.Machine

/-- R170: only the flags, and the completion. -/
def execNop (s : State) : Host.Outcome State Fault Refusal :=
  .next (complete (setFlags false false false s))

/-- R172: every K, Q and tag to 0. -/
def execClr (s : State) : Host.Outcome State Fault Refusal :=
  .next (complete (setFlags false false false (clearRegs s)))

/-- R176: K[D] <- K[A]. -/
def execMovk (d a : KIdx) (s : State) : Host.Outcome State Fault Refusal :=
  .next (finishInt d (readK s a) s)

/-- R180: the raw triple of Q[A], and INF = Q[A].inf. -/
def execMovq (d a : QIdx) (s : State) : Host.Outcome State Fault Refusal :=
  .next (complete (setFlags false (readQ s a).inf false (writeQ d (readQ s a) s)))

end Sys2Proof.Machine
end

