-- ==== Sys2Proof/Machine/ModularInverse.lean ====
section
/-! DEFINITION. The modular inverse at completion (`41_modinv.md`): MODINV. -/

namespace Sys2Proof.Machine

/-- R120: K[A] is reduced mod m first, and K[D] gets the inverse. K[A] ≡ 0 was rejected at acceptance (R121). -/
def execModinv (d a : KIdx) (m : Modulus) (s : State) : Host.Outcome State Fault Refusal :=
  .next (finishInt d (BitVec.ofNat 256 (modInv (modulusOf m) ((readK s a).toNat % modulusOf m))) s)

end Sys2Proof.Machine
end

