-- ==== Sys2Proof/Machine/Parameters.lean ====
section
/-! DEFINITION. The curve-parameter commands at completion (`40_parameters.md`): INIT, LDG, LDN. -/

namespace Sys2Proof.Machine

/-- R100, R101: READY <- 1. -/
def execInit (s : State) : Host.Outcome State Fault Refusal :=
  .next (complete (setFlags false false false (setReady s)))

/-- R104: Q[D] <- (GX, GY). -/
def execLdg (d : QIdx) (s : State) : Host.Outcome State Fault Refusal :=
  .next (finishPoint d (.affine curveGX curveGY) s)

/-- R107: K[D] <- N. -/
def execLdn (d : KIdx) (s : State) : Host.Outcome State Fault Refusal :=
  .next (finishInt d (BitVec.ofNat 256 curveN) s)

end Sys2Proof.Machine
end

