-- ==== Sys2Proof/Machine/PointArithmetic.lean ====
section
/-! DEFINITION. The point commands at completion (`42_point_arithmetic.md`): DECOMP, PADD, PDBL, SMUL, DSMUL, PEQ. -/

namespace Sys2Proof.Machine

/-- R138 to R140: the point with x = K[A] and the asked parity, or NONE = 1 and no register written. -/
def execDecomp (d : QIdx) (a : KIdx) (f : Parity) (s : State) : Host.Outcome State Fault Refusal :=
  match decompress (readK s a).toNat f with
  | some y => .next (finishPoint d (.affine (readK s a).toNat y) s)
  | none => .next (complete (setFlags true false false s))

/-- R144. -/
def execPadd (d a b : QIdx) (s : State) : Host.Outcome State Fault Refusal :=
  .next (finishPoint d (ecAdd (readPt s a) (readPt s b)) s)

/-- R148. -/
def execPdbl (d a : QIdx) (s : State) : Host.Outcome State Fault Refusal :=
  .next (finishPoint d (ecDbl (readPt s a)) s)

/-- R152, R153: the scalar is the full u256 value. -/
def execSmul (d : QIdx) (a : KIdx) (b : QIdx) (s : State) : Host.Outcome State Fault Refusal :=
  .next (finishPoint d (ecMul (readK s a).toNat (readPt s b)) s)

/-- R156. -/
def execDsmul (d : QIdx) (a : KIdx) (b : QIdx) (c : KIdx) (e : QIdx) (s : State) : Host.Outcome State Fault Refusal :=
  .next (finishPoint d (ecAdd (ecMul (readK s a).toNat (readPt s b)) (ecMul (readK s c).toNat (readPt s e))) s)

/-- R160: EQ is the equality of the two points; no register is written. -/
def execPeq (a b : QIdx) (s : State) : Host.Outcome State Fault Refusal :=
  .next (complete (setFlags false false (decide (readPt s a = readPt s b)) s))

end Sys2Proof.Machine
end

