-- ==== Sys2Proof/Machine/Dispatch.lean ====
section
/-! DEFINITION. One arm per command: what ENGINE's completion of it does (`60_exceptions.md` R197). -/

namespace Sys2Proof.Machine

def exec (i : Instr) (s : State) : Host.Outcome State Fault Refusal :=
  match i with
  | .nop => Sys2Proof.Machine.execNop s
  | .init => Sys2Proof.Machine.execInit s
  | .clr => Sys2Proof.Machine.execClr s
  | .ldg d => Sys2Proof.Machine.execLdg d s
  | .ldn d => Sys2Proof.Machine.execLdn d s
  | .movk d a => Sys2Proof.Machine.execMovk d a s
  | .movq d a => Sys2Proof.Machine.execMovq d a s
  | .modinv d a m => Sys2Proof.Machine.execModinv d a m s
  | .decomp d a f => Sys2Proof.Machine.execDecomp d a f s
  | .padd d a b => Sys2Proof.Machine.execPadd d a b s
  | .pdbl d a => Sys2Proof.Machine.execPdbl d a s
  | .smul d a b => Sys2Proof.Machine.execSmul d a b s
  | .dsmul d a b c e => Sys2Proof.Machine.execDsmul d a b c e s
  | .peq a b => Sys2Proof.Machine.execPeq a b s

end Sys2Proof.Machine
end

