-- ==== Sys2Proof/Machine/Window.lean ====
section
/-! DEFINITION. The register window (`20_memory.md` R50 to R66): what each offset names, what a read returns, what a write
does, and which accesses are accepted. -/

namespace Sys2Proof.Machine

/-- The 256-bit constants of the parameter window (R52, R59). -/
inductive Param where
  | p
  | n
  | gx
  | gy
  | a
  | b
  | h
  deriving DecidableEq, Repr

/-- What a 4-aligned offset below 0x800 names (R52). -/
inductive WinReg where
  | id
  | ctrl
  | status
  | cmd
  | valid
  | errcmd
  | lastcmd
  /-- word j of K_i -/
  | kWord (i : KIdx) (j : Fin 8)
  /-- word j of Q_i's x -/
  | qx (i : QIdx) (j : Fin 8)
  /-- word j of Q_i's y -/
  | qy (i : QIdx) (j : Fin 8)
  /-- Q_i's INF word -/
  | qinf (i : QIdx)
  /-- a RAZ/WI word of Q_i's slot -/
  | qpad (i : QIdx)
  /-- word j of a constant -/
  | param (c : Param) (j : Fin 8)
  /-- RAZ/WI -/
  | reserved
  deriving DecidableEq, Repr

/-- The value of a constant (R20). -/
def Param.value : Param → Nat
  | .p => curveP
  | .n => curveN
  | .gx => curveGX
  | .gy => curveGY
  | .a => curveA
  | .b => curveB
  | .h => curveH

/-- The Q window's part of the map, r bytes into Q_i's slot (R57). -/
def qSlotReg (i : QIdx) (r : Nat) : WinReg :=
  if r < 0x20 then .qx i (Fin.ofNat 8 (r / 4))
  else if r < 0x40 then .qy i (Fin.ofNat 8 ((r - 0x20) / 4))
  else if r < 0x44 then .qinf i
  else .qpad i

/-- The parameter window's part of the map (R52). -/
def paramReg (off : Nat) : WinReg :=
  let j := Fin.ofNat 8 (off % 0x20 / 4)
  if off < 0x620 then .param .p j
  else if off < 0x640 then .param .n j
  else if off < 0x660 then .param .gx j
  else if off < 0x680 then .param .gy j
  else if off < 0x6A0 then .param .a j
  else if off < 0x6C0 then .param .b j
  else if off < 0x6E0 then .param .h j
  else .reserved

/-- The register map of R52, on an accepted offset (4-aligned and below 0x800). -/
def winReg (off : Nat) : WinReg :=
  if off < 0x004 then .id
  else if off < 0x008 then .ctrl
  else if off < 0x00C then .status
  else if off < 0x010 then .cmd
  else if off < 0x014 then .valid
  else if off < 0x018 then .errcmd
  else if off < 0x01C then .lastcmd
  else if off < 0x100 then .reserved
  else if off < 0x200 then .kWord (Fin.ofNat 8 ((off - 0x100) / 0x20)) (Fin.ofNat 8 (off % 0x20 / 4))
  else if off < 0x600 then qSlotReg (Fin.ofNat 8 ((off - 0x200) / 0x80)) (off % 0x80)
  else paramReg off

/-- Word j of a 256-bit value, most significant first: `V[255 − 32·j : 224 − 32·j]` (R51). -/
def wordOf (v : U256) (j : Fin 8) : Word := v.extractLsb' (224 - 32 * j.val) 32

/-- The value with word j replaced (R56). -/
def setWord (v : U256) (j : Fin 8) (w : Word) : U256 :=
  (v &&& ~~~((0xFFFFFFFF : U256) <<< (224 - 32 * j.val))) ||| (w.setWidth 256 <<< (224 - 32 * j.val))

/-- Does the offset lie in the K and Q windows, which R65 governs while BUSY = 1? -/
def inKQ (off : Nat) : Bool := decide (0x100 ≤ off) && decide (off < 0x600)

/-- What a read returns when R65 does not apply (R52 to R60). -/
def readReg (s : State) : WinReg → Word
  | .id => idWord
  | .ctrl => bitAt s.ie 0
  | .status => statusWord s
  | .cmd => 0
  | .valid => validWord s
  | .errcmd => s.errCmd
  | .lastcmd => s.lastCmd
  | .kWord i j => wordOf (readK s i) j
  | .qx i j => wordOf (readQ s i).x j
  | .qy i j => wordOf (readQ s i).y j
  | .qinf i => bitAt (readQ s i).inf 0
  | .qpad _ => 0
  | .param c j => wordOf (BitVec.ofNat 256 c.value) j
  | .reserved => 0

/-- What a write does when R65 does not apply (R52 to R60). A K or Q word sets its register's tag (R56, R57). -/
def writeReg (v : Word) (s : State) : WinReg → State
  | .id => s
  | .ctrl => writeCtrl v s
  | .status => writeStatus v s
  | .cmd => cmdWrite v s
  | .valid => s
  | .errcmd => s
  | .lastcmd => s
  | .kWord i j => writeK i (setWord (readK s i) j v) s
  | .qx i j => writeQ i { readQ s i with x := setWord (readQ s i).x j v } s
  | .qy i j => writeQ i { readQ s i with y := setWord (readQ s i).y j v } s
  | .qinf i => writeQ i { readQ s i with inf := v.getLsbD 0 } s
  | .qpad _ => s
  | .param _ _ => s
  | .reserved => s

/-- Data returned to the host. -/
def respond (v : Word) (s : State) : State := { s with returned := s.returned ++ [v] }

/-- A read of a K or Q word while BUSY = 1 returns the next free value (R65). The counter is the model's own. -/
def respondFree (s : State) : State := { respond (Config.busyRead s.draws) s with draws := s.draws + 1 }

/-- A 32-bit read at an offset (R52 to R60, R64, R65). -/
def windowRead (off : Nat) (s : State) : State :=
  if s.busy && inKQ off then respondFree s else respond (readReg s (winReg off)) s

/-- A 32-bit write at an offset (R52 to R60, R64, R65). -/
def windowWrite (off : Nat) (v : Word) (s : State) : State :=
  if s.busy && inKQ off then record .overrun (BitVec.ofNat 32 off) s else writeReg v s (winReg off)

/-- BASE (R6): any address aligned to 0x800. -/
def State.base (s : State) : Nat := 0x800 * s.window

/-- The offset of an access the block accepts: 32 bits, a multiple of 4, below 0x800 (R61); `none` for any other. -/
def acceptedOffset (s : State) (bytes addr : Nat) : Option Nat :=
  if bytes = 4 ∧ s.base ≤ addr ∧ (addr - s.base) % 4 = 0 ∧ addr - s.base < 0x800 then some (addr - s.base) else none

/-- One host access. One that is not accepted is BUSERR (R61, logs 6 and 7). While reset is asserted an access has no
effect and a read returns 0 (R230). -/
def hostAccess (a : Access) (s : State) : Host.Outcome State Fault Refusal :=
  match a with
  | .read bytes addr =>
    match acceptedOffset s bytes addr with
    | none => .fault .busErr
    | some off => .next (if s.resetLine then respond 0 s else windowRead off s)
  | .write bytes addr v =>
    match acceptedOffset s bytes addr with
    | none => .fault .busErr
    | some off => .next (if s.resetLine then s else windowWrite off v s)

/-- The platform asserts reset: every entry of R43, and a command in flight is abandoned (R44, R230). What stands outside
the block is kept. Log 18. -/
def assertReset (s : State) : State :=
  { State.reset with
    resetLine := true
    window := s.window
    events := s.events
    returned := s.returned
    draws := s.draws }

/-- The platform releases reset (R230). -/
def releaseReset (s : State) : State := { s with resetLine := false }

end Sys2Proof.Machine
end

