-- ==== Sys2Proof/Machine/Engine.lean ====
section
/-! DEFINITION. ENGINE's turn (`00_scope.md` R7, `60_exceptions.md` R197) and what each input of the block does. -/

namespace Sys2Proof.Machine

/-- ENGINE's step, enabled exactly when BUSY = 1 (R197): the completion of the command in INFLIGHT. With BUSY = 0 the
block is idle and nothing changes (R210). No check is made again (R197, log 17). -/
def engineTurn (s : State) : Host.Outcome State Fault Refusal :=
  match s.inflight with
  | none => .next s
  | some w =>
    match decode w with
    | .cmd i => exec i s
    | .illegal => .refused (.inflightNotACommand w)
    | .reserved => .refused (.inflightNotACommand w)

/-- What the block does with one input (R7, R201, R230). -/
def deliver (e : Event) (s : State) : Host.Outcome State Fault Refusal :=
  match e with
  | .host a => hostAccess a s
  | .engine => engineTurn s
  | .assertReset => .next (assertReset s)
  | .releaseReset => .next (releaseReset s)

end Sys2Proof.Machine
end

