-- ==== Sys2Proof/Machine/Step.lean ====
section
/-! DEFINITION. One step of the machine: the next input in the order the block receives them; with none left, ENGINE's
turn, so that a command in flight completes (`00_scope.md` R7, `60_exceptions.md` R201). -/

namespace Sys2Proof.Machine

def step (s : State) : Host.Outcome State Fault Refusal :=
  match s.events with
  | [] => engineTurn s
  | e :: es => deliver e { s with events := es }

/-- The state in which the command word w has just been started (R196) and ENGINE's turn comes next, so that the next
step completes exactly it. Log 2. -/
def State.withFetchWord (s : State) (nbits w : Nat) : State :=
  { start (BitVec.ofNat 32 (w % 2 ^ nbits)) s with events := .engine :: s.events }

end Sys2Proof.Machine
end

