-- ==== Sys2Proof/Machine/HostProgram.lean ====
section
/-! DEFINITION. The host-program notation of `00_scope.md` R13, as the inputs it stands for. -/

namespace Sys2Proof.Machine

/-- `R off`. -/
def hostR (base off : Nat) : Event := .host (.read 4 (base + off))

/-- `W off, v`. -/
def hostW (base off : Nat) (v : Word) : Event := .host (.write 4 (base + off) v)

/-- The eight writes of a 256-bit value at an offset, most significant word first. -/
def hostW256 (base off : Nat) (v : U256) : List Event :=
  ([0, 1, 2, 3, 4, 5, 6, 7] : List (Fin 8)).map fun j => hostW base (off + 4 * j.val) (wordOf v j)

/-- `WK i, V`. -/
def hostWK (base : Nat) (i : KIdx) (v : U256) : List Event := hostW256 base (0x100 + 0x20 * i.val) v

/-- `WQ i, X, Y, inf`: the 17 words of R57. R13 gives no order for them; X, then Y, each most significant word first as for
`WK`, then INF is a DESIGN CHOICE. Log 20. -/
def hostWQ (base : Nat) (i : QIdx) (r : PointReg) : List Event :=
  hostW256 base (0x200 + 0x80 * i.val) r.x ++ hostW256 base (0x220 + 0x80 * i.val) r.y ++
    [hostW base (0x240 + 0x80 * i.val) (bitAt r.inf 0)]

/-- `CMD mnemonic operands`. -/
def hostCMD (base : Nat) (i : Instr) : Event := hostW base 0x00C (encode i)

/-- `POLL`: n reads of STATUS before ENGINE's turn comes, for any n (LAT, R6), and the read that then finds BUSY = 0. -/
def hostPOLL (base n : Nat) : List Event := List.replicate n (hostR base 0x008) ++ [.engine, hostR base 0x008]

end Sys2Proof.Machine
end

