-- ==== Sys2Proof/Safety.lean ====
section
/-! DEFINITION. The terms claims are stated in: the invariant of the block, which registers a command writes, and the
arithmetic relations of the group law as the spec writes them. -/

namespace Sys2Proof.Machine

/-- A command in flight passed the checks of R192 and still does (R72, R197). -/
abbrev State.InflightAccepted (s : State) : Prop := (s.inflight.all fun w => decide (checks w s = .noError)) = true

/-- INFLIGHT is the word LASTCMD holds (R196). -/
abbrev State.InflightIsLast (s : State) : Prop := s.inflight = none ∨ s.inflight = some s.lastCmd

/-- A register whose tag is 0 has not been written since reset or CLR, so it holds 0 (R23, R43, R172). -/
abbrev State.UntaggedAreZero (s : State) : Prop :=
  (∀ i : Fin 8, s.kv[i] = false → s.k[i] = 0) ∧ (∀ i : Fin 8, s.qv[i] = false → s.q[i] = PointReg.zero)

/-- At most one of NONE, INF and EQ is 1, and none is before READY = 1 (R31 to R33, R100, R170, R172). -/
abbrev State.FlagsExclusive (s : State) : Prop :=
  (s.flagNone && s.flagInf) = false ∧ (s.flagNone && s.flagEq) = false ∧ (s.flagInf && s.flagEq) = false ∧
    (s.ready = false → (s.flagNone || s.flagInf || s.flagEq) = false)

/-- While reset is asserted the block holds the values of R43 (R230). -/
abbrev State.ResetHolds (s : State) : Prop := s.resetLine = true → s = assertReset s

/-- The invariant of the block. -/
abbrev State.Inv (s : State) : Prop :=
  s.InflightAccepted ∧ s.InflightIsLast ∧ s.UntaggedAreZero ∧ s.FlagsExclusive ∧ s.ResetHolds

/-- The K register a command writes, R24 (CLR, which writes every one, apart). -/
def destK : Instr → Option KIdx
  | .ldn d => some d
  | .movk d _ => some d
  | .modinv d _ _ => some d
  | .nop | .init | .clr | .ldg _ | .movq _ _ | .decomp _ _ _ | .padd _ _ _ | .pdbl _ _ | .smul _ _ _ | .dsmul _ _ _ _ _
  | .peq _ _ => none

/-- The Q register a command writes, R27 (CLR apart; DECOMP only when a root exists). -/
def destQ : Instr → Option QIdx
  | .ldg d => some d
  | .movq d _ => some d
  | .decomp d _ _ => some d
  | .padd d _ _ => some d
  | .pdbl d _ => some d
  | .smul d _ _ => some d
  | .dsmul d _ _ _ _ => some d
  | .nop | .init | .clr | .ldn _ | .movk _ _ | .modinv _ _ _ | .peq _ _ => none

/-- The OPC values R87 lists as illegal. -/
def illegalOpc (o : Nat) : Bool :=
  (decide (0x03 ≤ o) && decide (o ≤ 0x07)) || (decide (0x0C ≤ o) && decide (o ≤ 0x0F)) ||
    (decide (0x11 ≤ o) && decide (o ≤ 0x1F)) || (decide (0x26 ≤ o) && decide (o ≤ 0xFF))

/-- The offset of a constant in the parameter window (R52). -/
def Param.offset : Param → Nat
  | .p => 0x600
  | .n => 0x620
  | .gx => 0x640
  | .gy => 0x660
  | .a => 0x680
  | .b => 0x6A0
  | .h => 0x6C0

/-- Two states hold the same in a source register (R8). -/
def SameSource (s1 s2 : State) : Src → Prop
  | .k i => readK s1 i = readK s2 i
  | .q i => readQ s1 i = readQ s2 i

/-- `IsInverse m a y`: y is inv_m(a) as R10 defines it. -/
def IsInverse (m a y : Nat) : Prop := 1 ≤ y ∧ y < m ∧ a * y % m = 1

/-- `IsRoot c y`: y is in roots(c) of R136. -/
def IsRoot (c y : Nat) : Prop := y < curveP ∧ y * y % curveP = c

/-- (x, y) are x3 and y3 of R132 for the slope lam, over the integers modulo P. -/
def IsThird (lam x1 y1 x2 x y : Int) : Prop :=
  0 ≤ x ∧ x < curveP ∧ 0 ≤ y ∧ y < curveP ∧
    x % curveP = (lam * lam - x1 - x2) % curveP ∧ y % curveP = (lam * (x1 - x) - y1) % curveP

/-- lam is num / den modulo P: lam · den ≡ num (R130). -/
def IsQuotient (lam num den : Int) : Prop := lam * den % curveP = num % curveP

/-- R132 as a relation: `IsSum p q r` when r is ecAdd(p, q). -/
def IsSum (p q r : Point) : Prop :=
  match p, q with
  | .infinity, q2 => r = q2
  | .affine x1 y1, .infinity => r = .affine x1 y1
  | .affine x1 y1, .affine x2 y2 =>
    if x1 = x2 ∧ (y1 + y2) % curveP = 0 then r = .infinity
    else ∃ (lam : Int) (x y : Nat), r = .affine x y ∧ IsThird lam x1 y1 x2 x y ∧
      (if x1 = x2 then IsQuotient lam (3 * ((x1 : Int) * x1)) (2 * (y1 : Int))
       else IsQuotient lam ((y2 : Int) - y1) ((x2 : Int) - x1))

/-- R133 as a relation: `IsDouble p r` when r is ecDbl(p). -/
def IsDouble (p r : Point) : Prop :=
  match p with
  | .infinity => r = .infinity
  | .affine x1 y1 => y1 ≠ 0 ∧ ∃ (lam : Int) (x y : Nat), r = .affine x y ∧ IsThird lam x1 y1 x1 x y ∧
      IsQuotient lam (3 * ((x1 : Int) * x1)) (2 * (y1 : Int))

/-- The next input the block receives is e, with es after it, and reset is not asserted. -/
def Receives (s : State) (e : Event) (es : List Event) : Prop := s.events = e :: es ∧ s.resetLine = false

/-- The block is idle and ready to check a command (R193): BUSY = 0 and ERR = 0. -/
def Idle (s : State) : Prop := s.inflight = none ∧ s.err = .noError

/-- ENGINE's turn is the next step, with `es` after it: its event is at the head, or no input is left (R7). -/
def EngineNext (s : State) (es : List Event) : Prop := s.events = .engine :: es ∨ (s.events = [] ∧ es = [])

/-- The block's next input is a write of v at an offset of its window. -/
def ReceivesWrite (s : State) (off : Nat) (v : Word) (es : List Event) : Prop := Receives s (hostW s.base off v) es

/-- The block's next input is a read at an offset of its window. -/
def ReceivesRead (s : State) (off : Nat) (es : List Event) : Prop := Receives s (hostR s.base off) es

/-- An input that can neither abandon a command nor stop the host: an accepted access, or ENGINE's turn. -/
def Quiet (s : State) : Event → Prop
  | .host (.read bytes addr) => (acceptedOffset s bytes addr).isSome = true
  | .host (.write bytes addr _) => (acceptedOffset s bytes addr).isSome = true
  | .engine => True
  | .assertReset => False
  | .releaseReset => False

end Sys2Proof.Machine
end

