-- ==== Sys2Proof/Certificates/Slice0/Obligations.lean ====
section
/-! DEFINITION. The statements about the model, each from the numbered rules of spec/ its docstring names. -/

open Sys2Proof Sys2Proof.Machine

/-! ### Encoding -/

/-- R84 to R86: decoding the word of any command gives that command back. -/
def Obligations.DecodeOfEncodeIsTheCommand : Prop := ∀ i : Instr, decode (encode i) = .cmd i

/-- R84 to R86, the other direction: a word that decodes is the one word of its command. -/
def Obligations.EncodeOfDecodedWordIsTheWord : Prop := ∀ (w : Word) (i : Instr), decode w = .cmd i → encode i = w

/-- R82, R86 to R88: match and mask select exactly the words whose fields the format admits. -/
def Obligations.DecodeOutcomeFollowsTheFields : Prop := ∀ w : Word,
  (decode w = .illegal ↔ formatOf (fieldsOf w).opc = none) ∧
  (decode w = .reserved ↔ ∃ fmt, formatOf (fieldsOf w).opc = some fmt ∧ (fieldsOf w).respects fmt = false) ∧
  ((∃ i, decode w = .cmd i) ↔ (fieldsOf w).wellFormed = true)

/-- R85, R104, R107, R120, R138, R144, R156, R160, R180 and the vectors V6, V63, V96, V110: worked words decode. -/
def Obligations.WorkedWordsDecode : Prop :=
  decode 0x24683200 = .cmd (.dsmul 3 2 0 3 1) ∧ decode 0x09E00000 = .cmd (.ldn 7) ∧
  decode 0x20200100 = .cmd (.decomp 1 0 .odd) ∧ decode 0x0BAC0000 = .cmd (.movq 5 3) ∧
  decode 0x10200000 = .cmd (.modinv 1 0 .n) ∧ decode 0x21248000 = .cmd (.padd 1 1 1) ∧
  decode 0x25050000 = .cmd (.peq 1 2) ∧ decode 0x26000000 = .illegal ∧ decode 0x09000001 = .reserved ∧
  decode 0x22200100 = .reserved ∧ decode 0x25250000 = .reserved

/-- R90, R91: a line assembles exactly when its operands are of the kinds its mnemonic takes; each mnemonic's operands are
its command's in the order D, A, B, C, E, F; and the pseudo-commands expand as listed. -/
def Obligations.AssemblyFollowsTheOperandKinds : Prop :=
  (∀ l : AsmLine, (assemble l).isSome = l.wellFormed) ∧
  assemble ⟨.nop, []⟩ = some [.nop] ∧ assemble ⟨.init, []⟩ = some [.init] ∧ assemble ⟨.clr, []⟩ = some [.clr] ∧
  (∀ d, assemble ⟨.ldg, [.q d]⟩ = some [.ldg d]) ∧
  (∀ d, assemble ⟨.ldn, [.k d]⟩ = some [.ldn d]) ∧
  (∀ d a, assemble ⟨.movk, [.k d, .k a]⟩ = some [.movk d a]) ∧
  (∀ d a, assemble ⟨.movq, [.q d, .q a]⟩ = some [.movq d a]) ∧
  (∀ d a m, assemble ⟨.modinv, [.k d, .k a, .modulus m]⟩ = some [.modinv d a m]) ∧
  (∀ d a f, assemble ⟨.decomp, [.q d, .k a, .parity f]⟩ = some [.decomp d a f]) ∧
  (∀ d a b, assemble ⟨.padd, [.q d, .q a, .q b]⟩ = some [.padd d a b]) ∧
  (∀ d a, assemble ⟨.pdbl, [.q d, .q a]⟩ = some [.pdbl d a]) ∧
  (∀ d a b, assemble ⟨.smul, [.q d, .k a, .q b]⟩ = some [.smul d a b]) ∧
  (∀ d a b c e, assemble ⟨.dsmul, [.q d, .k a, .q b, .k c, .q e]⟩ = some [.dsmul d a b c e]) ∧
  (∀ a b, assemble ⟨.peq, [.q a, .q b]⟩ = some [.peq a b]) ∧
  (∀ d a, assemble ⟨.invn, [.k d, .k a]⟩ = some [.modinv d a .n]) ∧
  (∀ d a, assemble ⟨.invp, [.k d, .k a]⟩ = some [.modinv d a .p]) ∧
  (∀ d a, assemble ⟨.dece, [.q d, .k a]⟩ = some [.decomp d a .even]) ∧
  (∀ d a, assemble ⟨.deco, [.q d, .k a]⟩ = some [.decomp d a .odd]) ∧
  (∀ d a t, assemble ⟨.subgrp, [.q d, .q a, .k t]⟩ = some [.ldn t, .smul d t a])

/-! ### Acceptance, rejection, start and completion -/

/-- R193, R194, R196 (and the CMD half of R195): what a write to CMD does in every state out of reset. -/
def Obligations.CommandWriteIsCheckedThenStartedOrRejected : Prop :=
  ∀ (s : State) (w : Word) (es : List Event), ReceivesWrite s 0x00C w es →
    (∀ v, s.inflight = some v → step s = .next { s with
      events := es
      err := if s.err = .noError then .overrun else s.err
      errCmd := if s.err = .noError then w else s.errCmd }) ∧
    (s.inflight = none → s.err ≠ .noError → step s = .next { s with events := es }) ∧
    (Idle s → checks w s = .noError → step s = .next { s with events := es, inflight := some w, lastCmd := w }) ∧
    (Idle s → checks w s ≠ .noError →
      step s = .next { s with events := es, err := checks w s, errCmd := w, done := true })

/-- R87: the illegal opcodes are the 242 listed, and each raises ILLOP whatever the word's other bits are. -/
def Obligations.IllegalOpcodeRaisesIllop : Prop :=
  (∀ w : Word, decode w = .illegal ↔ illegalOpc (opcOf w).toNat = true) ∧
  ((List.range 256).filter illegalOpc).length = 242 ∧
  ∀ (s : State) (w : Word) (es : List Event), ReceivesWrite s 0x00C w es → Idle s → illegalOpc (opcOf w).toNat = true →
    step s = .next { s with events := es, err := .illop, errCmd := w, done := true }

/-- R88: a legal OPC with RSV or an unused field nonzero raises RSVD and has no other effect. -/
def Obligations.NonzeroReservedFieldRaisesRsvd : Prop :=
  ∀ (s : State) (w : Word) (es : List Event) (fmt : Format), ReceivesWrite s 0x00C w es → Idle s →
    formatOf (fieldsOf w).opc = some fmt → (fieldsOf w).respects fmt = false →
    step s = .next { s with events := es, err := .rsvd, errCmd := w, done := true }

/-- R192, R190: before READY = 1 every command but NOP, INIT and CLR is rejected with NOTINIT. -/
def Obligations.CommandBeforeInitRaisesNotinit : Prop :=
  ∀ (s : State) (i : Instr) (es : List Event), ReceivesWrite s 0x00C (encode i) es → Idle s → s.ready = false →
    i ≠ .nop → i ≠ .init → i ≠ .clr →
    step s = .next { s with events := es, err := .notinit, errCmd := encode i, done := true }

/-- R23, R192: a command that names a source register whose tag is 0 is rejected with UNDEF. -/
def Obligations.UntaggedSourceRaisesUndef : Prop :=
  ∀ (s : State) (i : Instr) (r : Src) (es : List Event), ReceivesWrite s 0x00C (encode i) es → Idle s → s.ready = true →
    r ∈ sources i → tagOf s r = false →
    step s = .next { s with events := es, err := .undef, errCmd := encode i, done := true }

/-- R28, R192: onCurve is the curve equation over the integers, and a tagged Q source that fails it is rejected with ECURVE. -/
def Obligations.OffCurveSourceRaisesEcurve : Prop :=
  (∀ r : PointReg, r.onCurve = true ↔ r.inf = true ∨ (r.x.toNat < curveP ∧ r.y.toNat < curveP ∧
    (((r.y.toNat : Int) ^ 2 - ((r.x.toNat : Int) ^ 3 + 7)) % (curveP : Int) = 0))) ∧
  ∀ (s : State) (i : Instr) (q : QIdx) (es : List Event), ReceivesWrite s 0x00C (encode i) es → Idle s →
    s.ready = true → (∀ r ∈ sources i, tagOf s r = true) → Src.q q ∈ sources i → (readQ s q).onCurve = false →
    step s = .next { s with events := es, err := .ecurve, errCmd := encode i, done := true }

/-- R120, R121, R192: a MODINV of a tagged register that is 0 modulo m is rejected with NOINV and writes nothing. -/
def Obligations.InverseOfZeroRaisesNoinv : Prop :=
  ∀ (s : State) (d a : KIdx) (m : Modulus) (es : List Event), ReceivesWrite s 0x00C (encode (.modinv d a m)) es →
    Idle s → s.ready = true → s.kv[a] = true → (readK s a).toNat % modulusOf m = 0 →
    step s = .next { s with events := es, err := .noinv, errCmd := encode (.modinv d a m), done := true }

/-- R192, R193, R196: a command whose READY, tags, points and inverse are in order starts. -/
def Obligations.CommandThatPassesEveryCheckStarts : Prop :=
  ∀ (s : State) (i : Instr) (es : List Event), ReceivesWrite s 0x00C (encode i) es → Idle s →
    (s.ready = true ∨ i = .nop ∨ i = .init ∨ i = .clr) → (∀ r ∈ sources i, tagOf s r = true) →
    (∀ q, Src.q q ∈ sources i → (readQ s q).onCurve = true) →
    (∀ d a m, i = .modinv d a m → (readK s a).toNat % modulusOf m ≠ 0) →
    step s = .next { s with events := es, inflight := some (encode i), lastCmd := encode i }

/-- R195: a CMD write or a K or Q window write while BUSY = 1 is OVERRUN and is discarded; DONE and the command in flight
are untouched. -/
def Obligations.WriteWhileBusyIsOverrun : Prop :=
  ∀ (s : State) (v w : Word) (es : List Event), s.inflight = some w →
    (ReceivesWrite s 0x00C v es → step s = .next { s with
      events := es
      err := if s.err = .noError then .overrun else s.err
      errCmd := if s.err = .noError then v else s.errCmd }) ∧
    (∀ off, off % 4 = 0 → 0x100 ≤ off → off < 0x600 → ReceivesWrite s off v es → step s = .next { s with
      events := es
      err := if s.err = .noError then .overrun else s.err
      errCmd := if s.err = .noError then BitVec.ofNat 32 off else s.errCmd })

/-- R7, R197, R210: ENGINE's turn is exec of the command in flight, on the state with that input consumed, and nothing
else; with no command in flight it changes nothing. -/
def Obligations.StepRunsTheCommandInFlight : Prop :=
  ∀ (s : State) (es : List Event), EngineNext s es →
    (∀ w i, s.inflight = some w → decode w = .cmd i → step s = exec i { s with events := es }) ∧
    (s.inflight = none → step s = .next { s with events := es })

/-! ### What each command does at completion -/

/-- R170, R100, R172: NOP, INIT and CLR complete in every state. -/
def Obligations.NopInitAndClrComplete : Prop := ∀ s : State,
  exec .nop s = .next { s with
    flagNone := false, flagInf := false, flagEq := false, inflight := none, done := true } ∧
  exec .init s = .next { s with
    ready := true, flagNone := false, flagInf := false, flagEq := false, inflight := none, done := true } ∧
  exec .clr s = .next { s with
    k := Vector.replicate 8 0, kv := Vector.replicate 8 false
    q := Vector.replicate 8 ⟨false, 0, 0⟩, qv := Vector.replicate 8 false
    flagNone := false, flagInf := false, flagEq := false, inflight := none, done := true }

/-- R104, R107: LDG loads the generator and LDN the group order, with the values R20 gives. -/
def Obligations.LoadsWriteTheConstants : Prop := ∀ (s : State) (dq : QIdx) (dk : KIdx),
  exec (.ldg dq) s = .next { s with
    q := s.q.set dq ⟨false, 0x79BE667EF9DCBBAC55A06295CE870B07029BFCDB2DCE28D959F2815B16F81798,
      0x483ADA7726A3C4655DA4FBFC0E1108A8FD17B448A68554199C47D08FFB10D4B8⟩
    qv := s.qv.set dq true
    flagNone := false, flagInf := false, flagEq := false, inflight := none, done := true } ∧
  exec (.ldn dk) s = .next { s with
    k := s.k.set dk 0xFFFFFFFFFFFFFFFFFFFFFFFFFFFFFFFEBAAEDCE6AF48A03BBFD25E8CD0364141
    kv := s.kv.set dk true
    flagNone := false, flagInf := false, flagEq := false, inflight := none, done := true }

/-- R176, R180: MOVK copies a value and MOVQ a raw triple, whose inf bit is the INF flag. -/
def Obligations.MovesCopyTheRegister : Prop := ∀ (s : State) (dk ak : KIdx) (dq aq : QIdx),
  exec (.movk dk ak) s = .next { s with
    k := s.k.set dk s.k[ak], kv := s.kv.set dk true
    flagNone := false, flagInf := false, flagEq := false, inflight := none, done := true } ∧
  exec (.movq dq aq) s = .next { s with
    q := s.q.set dq s.q[aq], qv := s.qv.set dq true
    flagNone := false, flagInf := s.q[aq].inf, flagEq := false, inflight := none, done := true }

/-- R10, R120 to R122: for K[A] nonzero modulo m there is exactly one inverse in 1..m−1, and MODINV writes it. -/
def Obligations.ModinvWritesTheInverse : Prop := ∀ (s : State) (d a : KIdx) (m : Modulus),
  (readK s a).toNat % modulusOf m ≠ 0 →
    (∃ y, IsInverse (modulusOf m) (readK s a).toNat y ∧
      (∀ z, IsInverse (modulusOf m) (readK s a).toNat z → z = y) ∧
      exec (.modinv d a m) s = .next { s with
        k := s.k.set d (BitVec.ofNat 256 y), kv := s.kv.set d true
        flagNone := false, flagInf := false, flagEq := false, inflight := none, done := true })

/-- R136 to R140: DECOMP writes the point with x = K[A] and the root of the asked parity; there is exactly one when c has a
root; and with no root, or x ≥ P, it sets NONE and writes no register. -/
def Obligations.DecompWritesTheRootOrNone : Prop := ∀ (s : State) (d : QIdx) (a : KIdx) (f : Parity) (x : Nat),
  x = (readK s a).toNat →
    (∀ y, x < curveP → IsRoot ((x ^ 3 + 7) % curveP) y → y % 2 = parityBit f →
      exec (.decomp d a f) s = .next { s with
        q := s.q.set d ⟨false, readK s a, BitVec.ofNat 256 y⟩, qv := s.qv.set d true
        flagNone := false, flagInf := false, flagEq := false, inflight := none, done := true }) ∧
    ((∃ y, IsRoot ((x ^ 3 + 7) % curveP) y) → x < curveP →
      ∃ y, IsRoot ((x ^ 3 + 7) % curveP) y ∧ y % 2 = parityBit f ∧
        ∀ z, IsRoot ((x ^ 3 + 7) % curveP) z → z % 2 = parityBit f → z = y) ∧
    ((curveP ≤ x ∨ ∀ y, ¬ IsRoot ((x ^ 3 + 7) % curveP) y) →
      exec (.decomp d a f) s = .next { s with
        flagNone := true, flagInf := false, flagEq := false, inflight := none, done := true })

/-- R132, R144: PADD of two points on the curve writes their sum in canonical form and sets INF when it is O. -/
def Obligations.PaddWritesTheSum : Prop := ∀ (s : State) (d a b : QIdx),
  (readQ s a).onCurve = true → (readQ s b).onCurve = true →
    ∃ r, IsSum (readPt s a) (readPt s b) r ∧ exec (.padd d a b) s = .next { s with
      q := s.q.set d (PointReg.ofPoint r), qv := s.qv.set d true
      flagNone := false, flagInf := r.isInfinity, flagEq := false, inflight := none, done := true }

/-- R133, R137, R148: PDBL of a point on the curve writes its double; no affine point of the curve has y = 0, so the result is O
only for O. -/
def Obligations.PdblWritesTheDouble : Prop := ∀ (s : State) (d a : QIdx), (readQ s a).onCurve = true →
    ∃ r, IsDouble (readPt s a) r ∧ r.isInfinity = (readQ s a).inf ∧ exec (.pdbl d a) s = .next { s with
      q := s.q.set d (PointReg.ofPoint r), qv := s.qv.set d true
      flagNone := false, flagInf := r.isInfinity, flagEq := false, inflight := none, done := true }

/-- R134, R152, R153: SMUL of a point on the curve by any u256 scalar writes the scalar's repeated addition. -/
def Obligations.SmulIsRepeatedAddition : Prop := ∀ (s : State) (d : QIdx) (a : KIdx) (b : QIdx),
  (readQ s b).onCurve = true → ∀ r, r = repeatedAdd (readK s a).toNat (readPt s b) →
    exec (.smul d a b) s = .next { s with
      q := s.q.set d (PointReg.ofPoint r), qv := s.qv.set d true
      flagNone := false, flagInf := r.isInfinity, flagEq := false, inflight := none, done := true }

/-- R134, R156: DSMUL writes the sum of the two repeated additions. -/
def Obligations.DsmulIsTheSumOfTwoMultiples : Prop :=
  ∀ (s : State) (d : QIdx) (a : KIdx) (b : QIdx) (c : KIdx) (e : QIdx),
  (readQ s b).onCurve = true → (readQ s e).onCurve = true →
    ∃ r, IsSum (repeatedAdd (readK s a).toNat (readPt s b)) (repeatedAdd (readK s c).toNat (readPt s e)) r ∧
      exec (.dsmul d a b c e) s = .next { s with
        q := s.q.set d (PointReg.ofPoint r), qv := s.qv.set d true
        flagNone := false, flagInf := r.isInfinity, flagEq := false, inflight := none, done := true }

/-- R157: DSMUL's result equals two SMULs into two registers and a PADD of the two. The first register may not be the
second SMUL's source, and the registers differ. -/
def Obligations.DsmulEqualsTwoSmulsAndPadd : Prop :=
  ∀ (s s1 s2 s3 t : State) (d r1 r2 : QIdx) (a : KIdx) (b : QIdx) (c : KIdx) (e : QIdx),
    (readQ s b).onCurve = true → (readQ s e).onCurve = true → r1 ≠ r2 → r1 ≠ e →
    exec (.smul r1 a b) s = .next s1 → exec (.smul r2 c e) s1 = .next s2 → exec (.padd d r1 r2) s2 = .next s3 →
    exec (.dsmul d a b c e) s = .next t →
    readQ t d = readQ s3 d ∧ t.flagInf = s3.flagInf ∧ t.flagNone = s3.flagNone ∧ t.flagEq = s3.flagEq

/-- R160, R25: PEQ sets EQ when both registers hold O, or neither does and both coordinates agree; it writes no register. -/
def Obligations.PeqComparesThePoints : Prop := ∀ (s : State) (a b : QIdx),
  exec (.peq a b) s = .next { s with
    flagNone := false, flagInf := false
    flagEq := (s.q[a].inf && s.q[b].inf) ||
      (!s.q[a].inf && !s.q[b].inf && s.q[a].x == s.q[b].x && s.q[a].y == s.q[b].y)
    inflight := none, done := true }

/-- R152, R153, R135: k = N gives O for the generator, the subgroup check. -/
def Obligations.OrderTimesGeneratorIsInfinity : Prop := ∀ (s : State) (d : QIdx) (a : KIdx) (b : QIdx),
  (readK s a).toNat = curveN → readPt s b = .affine curveGX curveGY →
    exec (.smul d a b) s = .next { s with
      q := s.q.set d ⟨true, 0, 0⟩, qv := s.qv.set d true
      flagNone := false, flagInf := true, flagEq := false, inflight := none, done := true }

/-- R134, R135, R153, for every multiple of the generator: SMUL by k is SMUL by k mod N, and its result is O exactly when N
divides k times the multiple. (That every point of the curve is such a multiple, R135, is not stated.) -/
def Obligations.ScalarsOfGeneratorMultiplesReduceModN : Prop := ∀ (s : State) (d : QIdx) (a : KIdx) (b : QIdx) (j : Nat),
  readPt s b = repeatedAdd j (.affine curveGX curveGY) →
    exec (.smul d a b) s = .next { s with
      q := s.q.set d (PointReg.ofPoint (repeatedAdd ((readK s a).toNat % curveN) (readPt s b))), qv := s.qv.set d true
      flagNone := false, flagInf := decide (curveN ∣ (readK s a).toNat * j), flagEq := false
      inflight := none, done := true }

/-- R131, R132, R144: adding a point on the curve and its negation gives O, with INF = 1. -/
def Obligations.PointPlusItsNegationIsInfinity : Prop := ∀ (s : State) (d a b : QIdx),
  (readQ s a).onCurve = true → readPt s b = ecNeg (readPt s a) →
    exec (.padd d a b) s = .next { s with
      q := s.q.set d ⟨true, 0, 0⟩, qv := s.qv.set d true
      flagNone := false, flagInf := true, flagEq := false, inflight := none, done := true }

/-- R101: a second INIT leaves the same state as one. -/
def Obligations.InitIsIdempotent : Prop := ∀ s : State, ∃ t, exec .init s = .next t ∧ exec .init t = .next t ∧ t.ready = true

/-- R26, R29: every point a command writes satisfies onCurve and sets the register's tag, and every command but MOVQ writes
it in canonical form: O as inf 1, x 0, y 0, an affine point with both coordinates below P. -/
def Obligations.CommandsWriteCurvePoints : Prop := ∀ (i : Instr) (d : QIdx) (s t : State),
  (∀ r ∈ sources i, sourceOnCurve s r = true) → destQ i = some d → exec i s = .next t → t.flagNone = false →
    (readQ t d).onCurve = true ∧ t.qv[d] = true ∧
    ((∀ d' a', i ≠ .movq d' a') → ((readQ t d).inf = true → readQ t d = ⟨true, 0, 0⟩) ∧
      ((readQ t d).inf = false → (readQ t d).x.toNat < curveP ∧ (readQ t d).y.toNat < curveP))

/-- R24, R27, R197: the frame of every command: only its destination, the flags, BUSY, DONE and (INIT) READY change. -/
def Obligations.CompletionChangesOnlyTheDestination : Prop := ∀ (i : Instr) (s t : State), exec i s = .next t →
  (i ≠ .clr → ∀ j : KIdx, destK i ≠ some j → t.k[j] = s.k[j] ∧ t.kv[j] = s.kv[j]) ∧
  (i ≠ .clr → ∀ j : QIdx, destQ i ≠ some j → t.q[j] = s.q[j] ∧ t.qv[j] = s.qv[j]) ∧
  (i ≠ .init → t.ready = s.ready) ∧ t.err = s.err ∧ t.errCmd = s.errCmd ∧ t.lastCmd = s.lastCmd ∧ t.ie = s.ie ∧
  t.resetLine = s.resetLine ∧ t.window = s.window ∧ t.events = s.events ∧ t.returned = s.returned ∧
  t.draws = s.draws ∧ t.inflight = none ∧ t.done = true

/-- R8: a command's result depends only on its source operands, its F bit and the constants. -/
def Obligations.ResultDependsOnlyOnTheSources : Prop := ∀ (i : Instr) (s1 s2 t1 t2 : State),
  (∀ r ∈ sources i, SameSource s1 s2 r) → exec i s1 = .next t1 → exec i s2 = .next t2 →
    t1.flagNone = t2.flagNone ∧ t1.flagInf = t2.flagInf ∧ t1.flagEq = t2.flagEq ∧
    (∀ d, destK i = some d → readK t1 d = readK t2 d) ∧
    (∀ d, destQ i = some d → t1.flagNone = false → readQ t1 d = readQ t2 d)

/-! ### The register window -/

/-- R51: a 256-bit value is the big-endian sequence of its eight words. -/
def Obligations.ValuesAreBigEndianWords : Prop := ∀ v : U256,
  (∀ j : Fin 8, (wordOf v j).toNat = v.toNat / 2 ^ (224 - 32 * j.val) % 2 ^ 32) ∧
  v.toNat = ((wordOf v 0).toNat * 2 ^ 224 + (wordOf v 1).toNat * 2 ^ 192 + (wordOf v 2).toNat * 2 ^ 160 +
    (wordOf v 3).toNat * 2 ^ 128 + (wordOf v 4).toNat * 2 ^ 96 + (wordOf v 5).toNat * 2 ^ 64 +
    (wordOf v 6).toNat * 2 ^ 32 + (wordOf v 7).toNat)

/-- R56: the K window when BUSY = 0: a read returns the word; a write replaces that word only, and sets the tag. -/
def Obligations.IntegerWindowReadsAndWritesOneWord : Prop := ∀ (s : State) (i j : Fin 8) (es : List Event),
  s.inflight = none →
  (ReceivesRead s (0x100 + 0x20 * i.val + 4 * j.val) es →
    step s = .next { s with events := es, returned := s.returned ++ [wordOf s.k[i] j] }) ∧
  (∀ v, ReceivesWrite s (0x100 + 0x20 * i.val + 4 * j.val) v es →
    ∃ u, wordOf u j = v ∧ (∀ j', j' ≠ j → wordOf u j' = wordOf s.k[i] j') ∧
      step s = .next { s with events := es, k := s.k.set i u, kv := s.kv.set i true })

/-- R13, R51, R56: the eight writes of `WK i, V`, most significant word first, leave V in K_i and its tag set, and change
nothing else. -/
def Obligations.EightWordWritesLoadTheRegister : Prop := ∀ (s : State) (i : KIdx) (v : U256) (es : List Event),
  s.events = hostWK s.base i v ++ es → s.inflight = none → s.resetLine = false →
    core.run 8 s = .next { s with events := es, k := s.k.set i v, kv := s.kv.set i true }

/-- R57: the Q window when BUSY = 0: the X, Y and INF words read and write their bits and set the tag; the rest of the slot is
RAZ/WI. -/
def Obligations.PointWindowReadsAndWritesOneWord : Prop := ∀ (s : State) (i : Fin 8) (es : List Event),
  s.inflight = none →
  (∀ j : Fin 8,
    (ReceivesRead s (0x200 + 0x80 * i.val + 4 * j.val) es →
      step s = .next { s with events := es, returned := s.returned ++ [wordOf s.q[i].x j] }) ∧
    (ReceivesRead s (0x220 + 0x80 * i.val + 4 * j.val) es →
      step s = .next { s with events := es, returned := s.returned ++ [wordOf s.q[i].y j] }) ∧
    (∀ v, ReceivesWrite s (0x200 + 0x80 * i.val + 4 * j.val) v es →
      ∃ u, wordOf u j = v ∧ (∀ j', j' ≠ j → wordOf u j' = wordOf s.q[i].x j') ∧
        step s = .next { s with events := es, q := s.q.set i ⟨s.q[i].inf, u, s.q[i].y⟩, qv := s.qv.set i true }) ∧
    (∀ v, ReceivesWrite s (0x220 + 0x80 * i.val + 4 * j.val) v es →
      ∃ u, wordOf u j = v ∧ (∀ j', j' ≠ j → wordOf u j' = wordOf s.q[i].y j') ∧
        step s = .next { s with events := es, q := s.q.set i ⟨s.q[i].inf, s.q[i].x, u⟩, qv := s.qv.set i true })) ∧
  (ReceivesRead s (0x240 + 0x80 * i.val) es →
    step s = .next { s with events := es, returned := s.returned ++ [if s.q[i].inf then 1 else 0] }) ∧
  (∀ v, ReceivesWrite s (0x240 + 0x80 * i.val) v es → step s = .next { s with
    events := es, q := s.q.set i ⟨v.getLsbD 0, s.q[i].x, s.q[i].y⟩, qv := s.qv.set i true }) ∧
  (∀ m, m < 15 →
    (ReceivesRead s (0x244 + 0x80 * i.val + 4 * m) es → step s = .next { s with events := es, returned := s.returned ++ [0] }) ∧
    (∀ v, ReceivesWrite s (0x244 + 0x80 * i.val + 4 * m) v es → step s = .next { s with events := es }))

/-- R21, R59: the parameter window reads the constants of R20 whatever READY and BUSY are, and ignores writes. -/
def Obligations.ParameterWindowIsConstant : Prop := ∀ (s : State) (c : Param) (j : Fin 8) (es : List Event),
  (ReceivesRead s (c.offset + 4 * j.val) es → step s = .next { s with
    events := es, returned := s.returned ++ [wordOf (BitVec.ofNat 256 c.value) j] }) ∧
  (∀ v, ReceivesWrite s (c.offset + 4 * j.val) v es → step s = .next { s with events := es }) ∧
  Param.p.value = 2 ^ 256 - 2 ^ 32 - 977 ∧
  Param.n.value = 0xFFFFFFFFFFFFFFFFFFFFFFFFFFFFFFFEBAAEDCE6AF48A03BBFD25E8CD0364141 ∧
  Param.gx.value = 0x79BE667EF9DCBBAC55A06295CE870B07029BFCDB2DCE28D959F2815B16F81798 ∧
  Param.gy.value = 0x483ADA7726A3C4655DA4FBFC0E1108A8FD17B448A68554199C47D08FFB10D4B8 ∧
  Param.a.value = 0 ∧ Param.b.value = 7 ∧ Param.h.value = 1

/-- R53, R54, R58: ID, ERRCMD and LASTCMD read their words and ignore writes, and a CMD read returns 0, busy or not. -/
def Obligations.ReadOnlyRegistersIgnoreWrites : Prop := ∀ (s : State) (es : List Event),
  (ReceivesRead s 0x000 es → step s = .next { s with events := es, returned := s.returned ++ [0x4B310100] }) ∧
  (ReceivesRead s 0x00C es → step s = .next { s with events := es, returned := s.returned ++ [0] }) ∧
  (ReceivesRead s 0x014 es → step s = .next { s with events := es, returned := s.returned ++ [s.errCmd] }) ∧
  (ReceivesRead s 0x018 es → step s = .next { s with events := es, returned := s.returned ++ [s.lastCmd] }) ∧
  (∀ v off, (off = 0x000 ∨ off = 0x014 ∨ off = 0x018) → ReceivesWrite s off v es → step s = .next { s with events := es })

/-- R52, R64, R190, R198: the errors have the codes of R190; STATUS reads its fields and nothing else, and a STATUS write
clears DONE by bit 1 and ERR by bit 31, busy or not. -/
def Obligations.StatusReadsFieldsAndClearsByOnes : Prop :=
  (ErrCode.code .noError = 0 ∧ ErrCode.code .illop = 1 ∧ ErrCode.code .rsvd = 2 ∧ ErrCode.code .notinit = 3 ∧
    ErrCode.code .undef = 4 ∧ ErrCode.code .ecurve = 5 ∧ ErrCode.code .noinv = 6 ∧ ErrCode.code .overrun = 7) ∧
  ∀ (s : State) (es : List Event),
  (ReceivesRead s 0x008 es → ∃ w : Word, step s = .next { s with events := es, returned := s.returned ++ [w] } ∧
    w.toNat = s.err.code * 2 ^ 8 + s.ready.toNat * 2 ^ 5 + s.flagEq.toNat * 2 ^ 4 + s.flagInf.toNat * 2 ^ 3 +
      s.flagNone.toNat * 2 ^ 2 + s.done.toNat * 2 + s.inflight.isSome.toNat) ∧
  (∀ v, ReceivesWrite s 0x008 v es → step s = .next { s with
    events := es
    done := if v.getLsbD 1 then false else s.done
    err := if v.getLsbD 31 then .noError else s.err })

/-- R55: a VALID read returns KV[i] at bit i and QV[i] at bit 8 + i and zeros above, and a write is ignored. -/
def Obligations.ValidReadsTheTags : Prop := ∀ (s : State) (es : List Event),
  (ReceivesRead s 0x010 es → ∃ w : Word, step s = .next { s with events := es, returned := s.returned ++ [w] } ∧
    (∀ i : Fin 8, w.getLsbD i.val = s.kv[i] ∧ w.getLsbD (8 + i.val) = s.qv[i]) ∧ ∀ b, 16 ≤ b → w.getLsbD b = false) ∧
  (∀ v, ReceivesWrite s 0x010 v es → step s = .next { s with events := es })

/-- R38, R39, R52, R200: CTRL holds IE and zeros; a write takes bit 0, and `irq` at once is IE and DONE. -/
def Obligations.ControlWriteSetsInterruptEnable : Prop := ∀ (s : State) (es : List Event),
  (ReceivesRead s 0x004 es →
    step s = .next { s with events := es, returned := s.returned ++ [if s.ie then 1 else 0] }) ∧
  (∀ v, ReceivesWrite s 0x004 v es → ∃ t, step s = .next t ∧ t = { s with events := es, ie := v.getLsbD 0 } ∧
    t.irq = (v.getLsbD 0 && s.done))

/-- R52, R60: the reserved offsets outside the K and Q windows read 0 and ignore writes, busy or not. -/
def Obligations.ReservedOffsetsReadZeroAndIgnoreWrites : Prop := ∀ (s : State) (off : Nat) (es : List Event),
  off % 4 = 0 → (0x01C ≤ off ∧ off ≤ 0x0FF ∨ 0x6E0 ≤ off ∧ off ≤ 0x7FF) →
  (ReceivesRead s off es → step s = .next { s with events := es, returned := s.returned ++ [0] }) ∧
  (∀ v, ReceivesWrite s off v es → step s = .next { s with events := es })

/-- R61: an access that is not a 32-bit one at a 4-aligned offset below 0x800 is a host fault, and every other one answers a
next state. The model's choices in it: that the fault ends the run (log 6), that it is the same while reset is asserted, where
R61 and R230 leave it open (log 7), and that every address outside the window is such an access (log 14). -/
def Obligations.OtherAccessesAreBusErrors : Prop := ∀ (s : State) (bytes addr : Nat) (v : Word) (es : List Event),
  (s.events = .host (.read bytes addr) :: es ∨ s.events = .host (.write bytes addr v) :: es) →
  (¬ (bytes = 4 ∧ s.base ≤ addr ∧ (addr - s.base) % 4 = 0 ∧ addr - s.base < 0x800) → step s = .fault .busErr) ∧
  ((bytes = 4 ∧ s.base ≤ addr ∧ (addr - s.base) % 4 = 0 ∧ addr - s.base < 0x800) → ∃ t, step s = .next t)

/-- R63: a read changes nothing in the block: it returns one word and at most draws a free value. -/
def Obligations.ReadsChangeNothing : Prop := ∀ (s : State) (off : Nat) (es : List Event),
  off % 4 = 0 → off < 0x800 → s.events = hostR s.base off :: es →
    ∃ v d, step s = .next { s with events := es, returned := s.returned ++ [v], draws := d } ∧
      ((s.inflight = none ∨ off < 0x100 ∨ 0x600 ≤ off) → d = s.draws)

/-- R65: while BUSY = 1 a K or Q window read returns the free value, whatever it is, and changes nothing in the block. -/
def Obligations.BusyWindowReadReturnsAFreeValue : Prop := ∀ (s : State) (w : Word) (off : Nat) (es : List Event),
  s.inflight = some w → off % 4 = 0 → 0x100 ≤ off → off < 0x600 → ReceivesRead s off es →
    step s = .next { s with
      events := es, returned := s.returned ++ [Config.busyRead s.draws], draws := s.draws + 1 }

/-! ### Reset -/

/-- R43: the value of every piece of state after reset. -/
def Obligations.ResetValuesAreTheListedOnes : Prop :=
  (∀ i : Fin 8, State.reset.k[i] = 0 ∧ State.reset.kv[i] = false ∧ State.reset.q[i] = ⟨false, 0, 0⟩ ∧
    State.reset.qv[i] = false) ∧
  statusWord State.reset = 0 ∧ State.reset.err = .noError ∧ State.reset.errCmd = 0 ∧ State.reset.lastCmd = 0 ∧
  State.reset.ie = false ∧ State.reset.inflight = none ∧ State.reset.irq = false

/-- R44, R230: asserting reset puts every entry of R43 at its value and abandons a command in flight; while it is asserted a
write does nothing and a read returns 0; releasing it changes nothing else. -/
def Obligations.ResetClearsTheBlockAndHoldsIt : Prop := ∀ (s : State) (es : List Event),
  (s.events = .assertReset :: es → step s = .next { State.reset with
    resetLine := true, window := s.window, events := es, returned := s.returned, draws := s.draws }) ∧
  (s.events = .releaseReset :: es → step s = .next { s with events := es, resetLine := false }) ∧
  (s.resetLine = true → ∀ off, off % 4 = 0 → off < 0x800 →
    (s.events = hostR s.base off :: es → step s = .next { s with events := es, returned := s.returned ++ [0] }) ∧
    (∀ v, s.events = hostW s.base off v :: es → step s = .next { s with events := es }))

/-! ### Whole-machine rules -/

/-- R43: the state after reset satisfies the invariant. -/
def Obligations.ResetSatisfiesTheInvariant : Prop := State.reset.Inv

/-- R23, R31 to R33, R72, R196, R197, R230: every step keeps the invariant: a command in flight still passes its acceptance
checks and is the word of LASTCMD, an untagged register holds 0, at most one result flag is set, and reset holds the block. -/
def Obligations.EveryStepKeepsTheInvariant : Prop := ∀ s t : State, s.Inv → step s = .next t → t.Inv

/-- R34: only a completion and reset write NONE, INF and EQ, and reset and CLR clear them. -/
def Obligations.FlagsChangeOnlyAtCompletionOrReset : Prop :=
  (∀ s t : State, step s = .next t →
    (t.flagNone, t.flagInf, t.flagEq) ≠ (s.flagNone, s.flagInf, s.flagEq) →
    (∃ es w i, EngineNext s es ∧ s.inflight = some w ∧ decode w = .cmd i) ∨ ∃ es, s.events = .assertReset :: es) ∧
  (∀ (s : State) (es : List Event), s.events = .assertReset :: es →
    ∃ t, step s = .next t ∧ (t.flagNone, t.flagInf, t.flagEq) = (false, false, false)) ∧
  (∀ s : State, ∃ t, exec .clr s = .next t ∧ (t.flagNone, t.flagInf, t.flagEq) = (false, false, false))

/-- R35: READY is 0 after reset, the completion of INIT sets it, and only reset clears it. -/
def Obligations.ReadyIsSetByInitAndClearedByReset : Prop :=
  State.reset.ready = false ∧
  (∀ s : State, ∃ t, exec .init s = .next t ∧ t.ready = true) ∧
  (∀ s t : State, step s = .next t → t.ready ≠ s.ready →
    (t.ready = true ∧ ∃ es w, EngineNext s es ∧ s.inflight = some w ∧ decode w = .cmd .init) ∨
    (t.ready = false ∧ ∃ es, s.events = .assertReset :: es))

/-- R37, R198, R199: while ERR holds an error no step replaces it by another; only a STATUS write with ERRCLR and reset clear
it; and ERRCMD changes only when an error is recorded, and by reset. -/
def Obligations.FirstErrorIsKeptUntilCleared : Prop := ∀ s t : State, step s = .next t →
  (s.err ≠ .noError → t.err ≠ s.err → t.err = .noError ∧
    ((∃ es, s.events = .assertReset :: es) ∨ ∃ v es, ReceivesWrite s 0x008 v es ∧ v.getLsbD 31 = true)) ∧
  (t.errCmd ≠ s.errCmd → (s.err = .noError ∧ t.err ≠ .noError) ∨ ∃ es, s.events = .assertReset :: es)

/-- R200: DONE is set only by a completion or a rejection, and cleared only by a STATUS write with bit 1 and by reset. -/
def Obligations.DoneIsSetByCompletionOrRejectionOnly : Prop := ∀ s t : State, step s = .next t →
  (s.done = false → t.done = true →
    (s.inflight ≠ none ∧ t.inflight = none ∧ t.err = s.err) ∨
    (s.inflight = none ∧ s.err = .noError ∧ t.err ≠ .noError ∧ ∃ w es, ReceivesWrite s 0x00C w es)) ∧
  (s.done = true → t.done = false →
    (∃ v es, ReceivesWrite s 0x008 v es ∧ v.getLsbD 1 = true) ∨ ∃ es, s.events = .assertReset :: es)

/-- R36: LASTCMD changes only when a command is accepted, and then to its word, and by reset. -/
def Obligations.LastCommandIsTheLastAccepted : Prop := ∀ s t : State, step s = .next t → t.lastCmd ≠ s.lastCmd →
  (∃ w es, ReceivesWrite s 0x00C w es ∧ s.inflight = none ∧ checks w s = .noError ∧ t.inflight = some w ∧ t.lastCmd = w) ∨
    ∃ es, s.events = .assertReset :: es

/-- R65, R69, R72: while a command is in flight no host access changes a register, a tag, a flag, READY, LASTCMD or the
command itself. -/
def Obligations.OperandsAreFixedWhileBusy : Prop := ∀ (s t : State) (w : Word) (a : Access) (es : List Event),
  s.inflight = some w → s.events = .host a :: es → step s = .next t →
    t.k = s.k ∧ t.kv = s.kv ∧ t.q = s.q ∧ t.qv = s.qv ∧ t.flagNone = s.flagNone ∧ t.flagInf = s.flagInf ∧
    t.flagEq = s.flagEq ∧ t.ready = s.ready ∧ t.lastCmd = s.lastCmd ∧ t.inflight = some w

/-- R7, R69, R72, R197: a command in flight completes after at most the accesses still to arrive and one ENGINE turn, whatever
those accesses are, and its result is the one its operands gave when it was accepted. That inputs end or ENGINE's turn comes
is the model's form of fairness (log 1). -/
def Obligations.CommandInFlightCompletesWithItsOperands : Prop := ∀ (s u : State) (w : Word) (i : Instr),
  s.inflight = some w → decode w = .cmd i → (∀ e ∈ s.events, Quiet s e) → exec i s = .next u →
    ∃ n t, n ≤ s.events.length + 1 ∧ core.run n s = .next t ∧ t.inflight = none ∧ t.done = true ∧
      t.k = u.k ∧ t.kv = u.kv ∧ t.q = u.q ∧ t.qv = u.qv ∧ t.ready = u.ready ∧
      t.flagNone = u.flagNone ∧ t.flagInf = u.flagInf ∧ t.flagEq = u.flagEq
end

