-- ==== Sys2Proof/Laws/Field.lean ====
section
/-! SUPPORT. What the modular arithmetic of Machine/Field computes: powers, and the field operations as they are in
`ZMod curveP`. -/

namespace Sys2Proof.Laws

open Sys2Proof.Machine

theorem powModAux_eq (m : Nat) : ∀ fuel b e, e < 16 ^ fuel → powModAux m fuel b e = b ^ e % m
  | 0, b, e, h => by
    obtain rfl : e = 0 := by simpa using h
    simp [powModAux]
  | fuel + 1, b, e, h => by
    have h16 : e / 16 < 16 ^ fuel := by
      rw [Nat.div_lt_iff_lt_mul (by norm_num)]
      rwa [pow_succ] at h
    have hsplit : b ^ e = (b ^ (e / 16)) ^ 16 * b ^ (e % 16) := by
      rw [← pow_mul, ← pow_add, mul_comm (e / 16) 16, Nat.div_add_mod]
    have := powModAux_eq m fuel b (e / 16) h16
    simp only [powModAux, Nat.pow_eq, this]
    rw [hsplit, Nat.mul_mod, ← Nat.pow_mod, ← Nat.mul_mod]

/-- `powMod` is the power it says, for every 256-bit exponent. -/
theorem powMod_eq (m b e : Nat) (h : e < 2 ^ 256) : powMod m b e = b ^ e % m := by
  have h16 : e < 16 ^ 64 := by
    have : (16 : Nat) ^ 64 = 2 ^ 256 := by norm_num
    omega
  rw [powMod, powModAux_eq m 64 _ e h16, ← Nat.pow_mod]

theorem curveP_pos : 0 < curveP := by decide

theorem fSub_lt (a b : Nat) : fSub a b < curveP := Nat.mod_lt _ curveP_pos

theorem fDiv_lt (a b : Nat) : fDiv a b < curveP := Nat.mod_lt _ curveP_pos

theorem curveRhs_lt (x : Nat) : curveRhs x < curveP := Nat.mod_lt _ curveP_pos

theorem cast_fSub (a b : Nat) : ((fSub a b : Nat) : ZMod curveP) = a - b := by
  have hb : b % curveP ≤ curveP := (Nat.mod_lt _ curveP_pos).le
  simp [fSub, Nat.cast_sub hb, sub_eq_add_neg]

theorem cast_curveRhs (x : Nat) : ((curveRhs x : Nat) : ZMod curveP) = (x : ZMod curveP) ^ 3 + 7 := by
  simp only [curveRhs, curveB, ZMod.natCast_mod, Nat.cast_add, Nat.cast_mul]
  push_cast
  ring

end Sys2Proof.Laws
end

