-- ==== Sys2Proof/Laws/Primes.lean ====
section
/-! SUPPORT. p and n are prime (`41_modinv.md` R121), by Pratt certificates: a number p is prime when some a has order
p − 1 modulo p, and the prime factors of p − 1 are certified in turn. -/

namespace Sys2Proof.Laws

open Sys2Proof.Machine

/-- One certificate: `a` is a primitive root of `p`, and `fs` are the prime factors of p − 1 with repetition. -/
theorem prime_of_certificate (p a : Nat) (fs : List Nat) (hfs : ∀ q ∈ fs, q.Prime) (hp : p < 2 ^ 256)
    (hprod : fs.prod + 1 = p) (hone : powMod p a (p - 1) = 1)
    (hne : ∀ q ∈ fs, powMod p a ((p - 1) / q) ≠ 1) : p.Prime := by
  have hfpos : 0 < fs.prod := List.prod_pos fun q hq => (hfs q hq).pos
  have h1 : 1 < p := by omega
  have cast_pow : ∀ e, e ≤ p - 1 → ((a : ZMod p) ^ e = 1 ↔ powMod p a e = 1) := by
    intro e he
    rw [powMod_eq p a e (by omega)]
    have : ((a : ZMod p) ^ e = 1) ↔ ((a ^ e : Nat) : ZMod p) = ((1 : Nat) : ZMod p) := by push_cast; rfl
    rw [this, ZMod.natCast_eq_natCast_iff', Nat.mod_eq_of_lt h1]
  refine lucas_primality p (a : ZMod p) ((cast_pow _ le_rfl).2 hone) ?_
  intro q hq hdvd h
  have hmem : q ∈ fs := by
    have : q ∣ fs.prod := by rwa [← hprod, Nat.add_sub_cancel] at hdvd
    obtain ⟨r, hr, hqr⟩ := (Nat.Prime.prime hq).dvd_prod_iff.1 this
    rwa [(Nat.prime_dvd_prime_iff_eq hq (hfs r hr)).1 hqr]
  exact hne q hmem ((cast_pow _ (Nat.div_le_self _ _)).1 h)

theorem prime_173378833005251801 : Nat.Prime 173378833005251801 :=
  prime_of_certificate 173378833005251801 6
    [2, 2, 2, 5, 5, 2621, 24809, 13331831]
    (by
      simp only [List.mem_cons, List.not_mem_nil, or_false, forall_eq_or_imp, forall_eq]
      exact ⟨by norm_num, by norm_num, by norm_num, by norm_num, by norm_num, by norm_num, by norm_num, by norm_num⟩)
    (by decide) (by decide) (by decide +kernel) (by decide +kernel)

theorem prime_22149492674086928081353 : Nat.Prime 22149492674086928081353 :=
  prime_of_certificate 22149492674086928081353 5
    [2, 2, 2, 3, 5323, 173378833005251801]
    (by
      simp only [List.mem_cons, List.not_mem_nil, or_false, forall_eq_or_imp, forall_eq]
      exact ⟨by norm_num, by norm_num, by norm_num, by norm_num, by norm_num, prime_173378833005251801⟩)
    (by decide) (by decide) (by decide +kernel) (by decide +kernel)

theorem prime_132896956044521568488119 : Nat.Prime 132896956044521568488119 :=
  prime_of_certificate 132896956044521568488119 6
    [2, 3, 22149492674086928081353]
    (by
      simp only [List.mem_cons, List.not_mem_nil, or_false, forall_eq_or_imp, forall_eq]
      exact ⟨by norm_num, by norm_num, prime_22149492674086928081353⟩)
    (by decide) (by decide) (by decide +kernel) (by decide +kernel)

theorem prime_107590001 : Nat.Prime 107590001 :=
  prime_of_certificate 107590001 3
    [2, 2, 2, 2, 5, 5, 5, 5, 7, 29, 53]
    (by
      simp only [List.mem_cons, List.not_mem_nil, or_false, forall_eq_or_imp, forall_eq]
      exact ⟨by norm_num, by norm_num, by norm_num, by norm_num, by norm_num, by norm_num, by norm_num, by norm_num, by norm_num, by norm_num, by norm_num⟩)
    (by decide) (by decide) (by decide +kernel) (by decide +kernel)

theorem prime_255515944373312847190720520512484175977 : Nat.Prime 255515944373312847190720520512484175977 :=
  prime_of_certificate 255515944373312847190720520512484175977 3
    [2, 2, 2, 7, 7, 11, 1627, 2657, 4423, 41201, 96557, 7240687, 107590001]
    (by
      simp only [List.mem_cons, List.not_mem_nil, or_false, forall_eq_or_imp, forall_eq]
      exact ⟨by norm_num, by norm_num, by norm_num, by norm_num, by norm_num, by norm_num, by norm_num, by norm_num, by norm_num, by norm_num, by norm_num, by norm_num, prime_107590001⟩)
    (by decide) (by decide) (by decide +kernel) (by decide +kernel)

theorem prime_205115282021455665897114700593932402728804164701536103180137503955397371 : Nat.Prime 205115282021455665897114700593932402728804164701536103180137503955397371 :=
  prime_of_certificate 205115282021455665897114700593932402728804164701536103180137503955397371 10
    [2, 3, 5, 29, 29, 31, 7723, 132896956044521568488119, 255515944373312847190720520512484175977]
    (by
      simp only [List.mem_cons, List.not_mem_nil, or_false, forall_eq_or_imp, forall_eq]
      exact ⟨by norm_num, by norm_num, by norm_num, by norm_num, by norm_num, by norm_num, by norm_num, prime_132896956044521568488119, prime_255515944373312847190720520512484175977⟩)
    (by decide) (by decide) (by decide +kernel) (by decide +kernel)

theorem curveP_prime : Nat.Prime curveP :=
  prime_of_certificate curveP 3
    [2, 3, 7, 13441, 205115282021455665897114700593932402728804164701536103180137503955397371]
    (by
      simp only [List.mem_cons, List.not_mem_nil, or_false, forall_eq_or_imp, forall_eq]
      exact ⟨by norm_num, by norm_num, by norm_num, by norm_num, prime_205115282021455665897114700593932402728804164701536103180137503955397371⟩)
    (by decide) (by decide) (by decide +kernel) (by decide +kernel)

theorem prime_107361793816595537 : Nat.Prime 107361793816595537 :=
  prime_of_certificate 107361793816595537 3
    [2, 2, 2, 2, 16699, 85831, 4681609]
    (by
      simp only [List.mem_cons, List.not_mem_nil, or_false, forall_eq_or_imp, forall_eq]
      exact ⟨by norm_num, by norm_num, by norm_num, by norm_num, by norm_num, by norm_num, by norm_num⟩)
    (by decide) (by decide) (by decide +kernel) (by decide +kernel)

theorem prime_174723607534414371449 : Nat.Prime 174723607534414371449 :=
  prime_of_certificate 174723607534414371449 3
    [2, 2, 2, 17, 59, 4051, 120233, 44706919]
    (by
      simp only [List.mem_cons, List.not_mem_nil, or_false, forall_eq_or_imp, forall_eq]
      exact ⟨by norm_num, by norm_num, by norm_num, by norm_num, by norm_num, by norm_num, by norm_num, by norm_num⟩)
    (by decide) (by decide) (by decide +kernel) (by decide +kernel)

theorem prime_545358713 : Nat.Prime 545358713 :=
  prime_of_certificate 545358713 5
    [2, 2, 2, 41, 59, 28181]
    (by
      simp only [List.mem_cons, List.not_mem_nil, or_false, forall_eq_or_imp, forall_eq]
      exact ⟨by norm_num, by norm_num, by norm_num, by norm_num, by norm_num, by norm_num⟩)
    (by decide) (by decide) (by decide +kernel) (by decide +kernel)

theorem prime_297159362677 : Nat.Prime 297159362677 :=
  prime_of_certificate 297159362677 2
    [2, 2, 3, 3, 11, 461, 1627771]
    (by
      simp only [List.mem_cons, List.not_mem_nil, or_false, forall_eq_or_imp, forall_eq]
      exact ⟨by norm_num, by norm_num, by norm_num, by norm_num, by norm_num, by norm_num, by norm_num⟩)
    (by decide) (by decide) (by decide +kernel) (by decide +kernel)

theorem prime_29047611873442575647497758179 : Nat.Prime 29047611873442575647497758179 :=
  prime_of_certificate 29047611873442575647497758179 2
    [2, 293, 305873, 545358713, 297159362677]
    (by
      simp only [List.mem_cons, List.not_mem_nil, or_false, forall_eq_or_imp, forall_eq]
      exact ⟨by norm_num, by norm_num, by norm_num, prime_545358713, prime_297159362677⟩)
    (by decide) (by decide) (by decide +kernel) (by decide +kernel)

theorem prime_341948486974166000522343609283189 : Nat.Prime 341948486974166000522343609283189 :=
  prime_of_certificate 341948486974166000522343609283189 2
    [2, 2, 3, 3, 3, 109, 29047611873442575647497758179]
    (by
      simp only [List.mem_cons, List.not_mem_nil, or_false, forall_eq_or_imp, forall_eq]
      exact ⟨by norm_num, by norm_num, by norm_num, by norm_num, by norm_num, by norm_num, prime_29047611873442575647497758179⟩)
    (by decide) (by decide) (by decide +kernel) (by decide +kernel)

theorem curveN_prime : Nat.Prime curveN :=
  prime_of_certificate curveN 7
    [2, 2, 2, 2, 2, 2, 3, 149, 631, 107361793816595537, 174723607534414371449, 341948486974166000522343609283189]
    (by
      simp only [List.mem_cons, List.not_mem_nil, or_false, forall_eq_or_imp, forall_eq]
      exact ⟨by norm_num, by norm_num, by norm_num, by norm_num, by norm_num, by norm_num, by norm_num, by norm_num, by norm_num, prime_107361793816595537, prime_174723607534414371449, prime_341948486974166000522343609283189⟩)
    (by decide) (by decide) (by decide +kernel) (by decide +kernel)

end Sys2Proof.Laws
end

