-- ==== Sys2Proof/Laws/Curve.lean ====
section
/-! SUPPORT. The machine's points are Mathlib's points of the elliptic curve y² = x³ + 7 over `ZMod curveP`, and its
`ecAdd` is their addition (`42_point_arithmetic.md` R132 to R135). From this come the closure of the curve under the group
law, its associativity and commutativity, and that doubling and adding computes repeated addition. -/

namespace Sys2Proof.Laws

open Sys2Proof.Machine

/-- The curve, as Mathlib has it. -/
def secp : WeierstrassCurve.Affine (ZMod curveP) := ⟨0, 0, 0, 0, 7⟩

theorem cast_eq_iff {x y : Nat} (hx : x < curveP) (hy : y < curveP) : (x : ZMod curveP) = y ↔ x = y := by
  rw [ZMod.natCast_eq_natCast_iff', Nat.mod_eq_of_lt hx, Nat.mod_eq_of_lt hy]

theorem cast_eq_zero_iff (x : Nat) : (x : ZMod curveP) = 0 ↔ x % curveP = 0 := by
  rw [ZMod.natCast_eq_zero_iff, Nat.dvd_iff_mod_eq_zero]

theorem cast_ofNat_ne_zero {c : Nat} (h0 : 0 < c) (h : c < curveP) : (c : ZMod curveP) ≠ 0 := by
  rw [Ne, cast_eq_zero_iff, Nat.mod_eq_of_lt h]
  omega

theorem affineOnCurve_iff (x y : Nat) :
    affineOnCurve x y = true ↔ x < curveP ∧ y < curveP ∧ (y : ZMod curveP) ^ 2 = (x : ZMod curveP) ^ 3 + 7 := by
  simp only [affineOnCurve, Bool.and_eq_true, decide_eq_true_eq, and_assoc]
  refine and_congr_right fun _ => and_congr_right fun _ => ?_
  rw [← cast_eq_iff (Nat.mod_lt _ curveP_pos) (curveRhs_lt x), cast_curveRhs, ZMod.natCast_mod, Nat.cast_mul, pow_two]

section Group

variable [Fact (Nat.Prime curveP)]

theorem cast_modInv (a : Nat) (h : (a : ZMod curveP) ≠ 0) : ((modInv curveP a : Nat) : ZMod curveP) = (a : ZMod curveP)⁻¹ := by
  have ha : ¬ a % curveP = 0 := fun h0 => h ((cast_eq_zero_iff a).2 h0)
  have hlt : curveP - 2 < 2 ^ 256 := by decide
  rw [modInv, if_neg ha, powMod_eq _ _ _ hlt, ZMod.natCast_mod, Nat.cast_pow]
  refine eq_inv_of_mul_eq_one_left ?_
  rw [← pow_succ, show curveP - 2 + 1 = curveP - 1 by decide]
  exact ZMod.pow_card_sub_one_eq_one h

theorem cast_fDiv (a b : Nat) (h : (b : ZMod curveP) ≠ 0) : ((fDiv a b : Nat) : ZMod curveP) = (a : ZMod curveP) / b := by
  rw [fDiv, ZMod.natCast_mod, Nat.cast_mul, cast_modInv b h, div_eq_mul_inv]

theorem secp_equation_iff (x y : ZMod curveP) : secp.Equation x y ↔ y ^ 2 = x ^ 3 + 7 := by
  simp [WeierstrassCurve.Affine.equation_iff, secp]

theorem secp_nonsingular_iff (x y : ZMod curveP) : secp.Nonsingular x y ↔ y ^ 2 = x ^ 3 + 7 := by
  rw [← WeierstrassCurve.Affine.equation_iff_nonsingular_of_Δ_ne_zero, secp_equation_iff]
  have h : ((21168 : Nat) : ZMod curveP) ≠ 0 := cast_ofNat_ne_zero (by norm_num) (by decide)
  intro h0
  apply h
  simp only [WeierstrassCurve.Δ, WeierstrassCurve.b₂, WeierstrassCurve.b₄, WeierstrassCurve.b₆, WeierstrassCurve.b₈, secp]
    at h0
  push_cast
  linear_combination -h0

theorem secp_negY (x y : ZMod curveP) : secp.negY x y = -y := by simp [secp]

/-- The machine's point `p` stands for the group element `g`. -/
def Represents (p : Point) (g : secp.Point) : Prop :=
  match p with
  | .infinity => g = 0
  | .affine x y => x < curveP ∧ y < curveP ∧ ∃ h, g = .some (x : ZMod curveP) (y : ZMod curveP) h

/-- A point is on the curve exactly when it stands for a group element. -/
theorem onCurve_iff_represents (p : Point) : p.onCurve = true ↔ ∃ g, Represents p g := by
  cases p with
  | infinity => exact ⟨fun _ => ⟨0, rfl⟩, fun _ => rfl⟩
  | affine x y =>
    simp only [Point.onCurve, affineOnCurve_iff, Represents]
    constructor
    · rintro ⟨hx, hy, h⟩
      exact ⟨_, hx, hy, (secp_nonsingular_iff _ _).2 h, rfl⟩
    · rintro ⟨g, hx, hy, h, -⟩
      exact ⟨hx, hy, (secp_nonsingular_iff _ _).1 h⟩

/-- Two points that stand for one group element are equal. -/
theorem Represents.unique {p q : Point} {g : secp.Point} (hp : Represents p g) (hq : Represents q g) : p = q := by
  cases p with
  | infinity =>
    cases q with
    | infinity => rfl
    | affine x y =>
      obtain ⟨-, -, h, rfl⟩ := hq
      exact absurd hp (WeierstrassCurve.Affine.Point.some_ne_zero h)
  | affine x y =>
    obtain ⟨hx, hy, h, rfl⟩ := hp
    cases q with
    | infinity => exact absurd hq (WeierstrassCurve.Affine.Point.some_ne_zero h)
    | affine x' y' =>
      obtain ⟨hx', hy', h', he⟩ := hq
      obtain ⟨h1, h2⟩ := (WeierstrassCurve.Affine.Point.some.injEq ..).mp he
      rw [(cast_eq_iff hx hx').1 h1, (cast_eq_iff hy hy').1 h2]

theorem cast_ecSlope {x1 y1 x2 y2 : Nat} (hx1 : x1 < curveP) (hx2 : x2 < curveP)
    (h1 : secp.Nonsingular (x1 : ZMod curveP) y1) (h2 : secp.Nonsingular (x2 : ZMod curveP) y2)
    (hne : ¬ ((x1 : ZMod curveP) = x2 ∧ (y1 : ZMod curveP) = secp.negY x2 y2)) :
    ((ecSlope x1 y1 x2 y2 : Nat) : ZMod curveP) = secp.slope (x1 : ZMod curveP) x2 y1 y2 := by
  unfold ecSlope
  split
  · next hx =>
    subst hx
    have hy : (y1 : ZMod curveP) ≠ secp.negY x1 y2 := fun h => hne ⟨rfl, h⟩
    have hyy := WeierstrassCurve.Affine.Y_eq_of_Y_ne h1.1 h2.1 rfl hy
    have h2y : ((2 * y1 % curveP : Nat) : ZMod curveP) ≠ 0 := by
      rw [ZMod.natCast_mod]
      push_cast
      intro h0
      apply hy
      rw [secp_negY, ← hyy]
      linear_combination h0
    rw [cast_fDiv _ _ h2y, WeierstrassCurve.Affine.slope_of_Y_ne rfl hy, secp_negY]
    push_cast [ZMod.natCast_mod]
    simp only [secp]
    congr 1 <;> ring
  · next hx =>
    have hx' : (x1 : ZMod curveP) ≠ x2 := fun h => hx ((cast_eq_iff hx1 hx2).1 h)
    have hd : ((fSub x2 x1 : Nat) : ZMod curveP) ≠ 0 := by
      rw [cast_fSub]
      exact sub_ne_zero.2 (Ne.symm hx')
    rw [cast_fDiv _ _ hd, WeierstrassCurve.Affine.slope_of_X_ne hx', cast_fSub, cast_fSub,
      ← neg_sub (y1 : ZMod curveP), ← neg_sub (x1 : ZMod curveP), neg_div_neg_eq]

/-- `ecAdd` is the addition of the group. -/
theorem Represents.add {p q : Point} {g h : secp.Point} (hp : Represents p g) (hq : Represents q h) :
    Represents (ecAdd p q) (g + h) := by
  cases p with
  | infinity =>
    obtain rfl : g = 0 := hp
    rw [zero_add]
    exact hq
  | affine x1 y1 =>
    cases q with
    | infinity =>
      obtain rfl : h = 0 := hq
      rw [add_zero]
      exact hp
    | affine x2 y2 =>
      obtain ⟨hx1, hy1, n1, rfl⟩ := hp
      obtain ⟨hx2, hy2, n2, rfl⟩ := hq
      have hiff : (x1 = x2 ∧ (y1 + y2) % curveP = 0) ↔
          ((x1 : ZMod curveP) = x2 ∧ (y1 : ZMod curveP) = secp.negY x2 y2) := by
        rw [cast_eq_iff hx1 hx2, secp_negY, ← cast_eq_zero_iff, Nat.cast_add, add_eq_zero_iff_eq_neg]
      simp only [ecAdd]
      split
      · next hneg =>
        obtain ⟨hx, hy⟩ := hiff.1 hneg
        exact WeierstrassCurve.Affine.Point.add_of_Y_eq hx hy
      · next hneg =>
        have hne := fun hh => hneg (hiff.2 hh)
        rw [WeierstrassCurve.Affine.Point.add_some hne]
        have hs := cast_ecSlope hx1 hx2 n1 n2 hne
        have ex : ((fSub (fSub (ecSlope x1 y1 x2 y2 * ecSlope x1 y1 x2 y2) x1) x2 : Nat) : ZMod curveP) =
            secp.addX x1 x2 (secp.slope (x1 : ZMod curveP) x2 y1 y2) := by
          rw [cast_fSub, cast_fSub, Nat.cast_mul, hs]
          simp only [WeierstrassCurve.Affine.addX, secp]
          ring
        have ey : ((fSub (ecSlope x1 y1 x2 y2 *
            fSub x1 (fSub (fSub (ecSlope x1 y1 x2 y2 * ecSlope x1 y1 x2 y2) x1) x2)) y1 : Nat) : ZMod curveP) =
            secp.addY x1 x2 y1 (secp.slope (x1 : ZMod curveP) x2 y1 y2) := by
          rw [cast_fSub, Nat.cast_mul, cast_fSub, ex, hs, WeierstrassCurve.Affine.addY, secp_negY,
            WeierstrassCurve.Affine.negAddY]
          ring
        refine ⟨fSub_lt _ _, fSub_lt _ _, ?_, ?_⟩
        · rw [ex, ey]
          exact WeierstrassCurve.Affine.nonsingular_add n1 n2 hne
        · congr 1
          · exact ex.symm
          · exact ey.symm

theorem Represents.repeatedAdd {p : Point} {g : secp.Point} (hp : Represents p g) :
    ∀ k, Represents (repeatedAdd k p) (k • g)
  | 0 => by
    rw [zero_nsmul]
    exact rfl
  | k + 1 => by
    rw [succ_nsmul]
    exact (hp.repeatedAdd k).add hp

theorem Represents.ecMulAux {p : Point} {g : secp.Point} (hp : Represents p g) :
    ∀ fuel k, k < 2 ^ fuel → Represents (ecMulAux fuel k p) (k • g)
  | 0, k, h => by
    obtain rfl : k = 0 := by simpa using h
    rw [zero_nsmul]
    exact rfl
  | fuel + 1, k, h => by
    have ih := hp.ecMulAux fuel (k / 2) (by rw [pow_succ] at h; omega)
    have hd := ih.add ih
    rw [← add_nsmul] at hd
    simp only [Machine.ecMulAux, ecDbl]
    split
    · next hodd =>
      have := hd.add hp
      rwa [← succ_nsmul, show k / 2 + k / 2 + 1 = k by omega] at this
    · next heven => rwa [show k / 2 + k / 2 = k by omega] at hd

theorem Represents.ecMul {p : Point} {g : secp.Point} (hp : Represents p g) {k : Nat} (h : k < 2 ^ 256) :
    Represents (ecMul k p) (k • g) := hp.ecMulAux 256 k h

end Group

/-- R132: the sum of two points on the curve is on the curve. -/
theorem ecAdd_onCurve {p q : Point} (hp : p.onCurve = true) (hq : q.onCurve = true) : (ecAdd p q).onCurve = true := by
  have := Fact.mk curveP_prime
  obtain ⟨g, hg⟩ := (onCurve_iff_represents p).1 hp
  obtain ⟨h, hh⟩ := (onCurve_iff_represents q).1 hq
  exact (onCurve_iff_represents _).2 ⟨_, hg.add hh⟩

/-- R134: a scalar multiple of a point on the curve is on the curve. -/
theorem ecMul_onCurve {p : Point} (hp : p.onCurve = true) {k : Nat} (h : k < 2 ^ 256) : (ecMul k p).onCurve = true := by
  have := Fact.mk curveP_prime
  obtain ⟨g, hg⟩ := (onCurve_iff_represents p).1 hp
  exact (onCurve_iff_represents _).2 ⟨_, hg.ecMul h⟩

/-- R134: doubling and adding is repeated addition, for every point on the curve and every u256 scalar. -/
theorem ecMul_eq_repeatedAdd {p : Point} (hp : p.onCurve = true) {k : Nat} (h : k < 2 ^ 256) :
    ecMul k p = repeatedAdd k p := by
  have := Fact.mk curveP_prime
  obtain ⟨g, hg⟩ := (onCurve_iff_represents p).1 hp
  exact (hg.ecMul h).unique (hg.repeatedAdd k)

/-- R135: `ecAdd` is commutative on the curve. -/
theorem ecAdd_comm {p q : Point} (hp : p.onCurve = true) (hq : q.onCurve = true) : ecAdd p q = ecAdd q p := by
  have := Fact.mk curveP_prime
  obtain ⟨g, hg⟩ := (onCurve_iff_represents p).1 hp
  obtain ⟨h, hh⟩ := (onCurve_iff_represents q).1 hq
  have := hh.add hg
  rw [add_comm] at this
  exact (hg.add hh).unique this

/-- R135: `ecAdd` is associative on the curve. -/
theorem ecAdd_assoc {p q r : Point} (hp : p.onCurve = true) (hq : q.onCurve = true) (hr : r.onCurve = true) :
    ecAdd (ecAdd p q) r = ecAdd p (ecAdd q r) := by
  have := Fact.mk curveP_prime
  obtain ⟨g, hg⟩ := (onCurve_iff_represents p).1 hp
  obtain ⟨h, hh⟩ := (onCurve_iff_represents q).1 hq
  obtain ⟨i, hi⟩ := (onCurve_iff_represents r).1 hr
  have := hg.add (hh.add hi)
  rw [← add_assoc] at this
  exact ((hg.add hh).add hi).unique this

end Sys2Proof.Laws
end

