-- ==== Sys2Proof/Laws/PerInstr.lean ====
section
/-! SUPPORT. A statement about every command as syntax: its word has well-formed fields (`30_encoding.md` R82, R85, R88). -/

namespace Sys2Proof.Laws

/-- Bits b of a register field shifted to `lo`, R83. -/
theorem getLsbD_regBits (r : Fin 8) (lo b : Nat) : (regBits r lo).getLsbD b =
    (decide (b < 32) && decide (lo ≤ b) && (BitVec.ofFin r : BitVec 3).getLsbD (b - lo)) := by
  simp only [regBits, BitVec.getLsbD_shiftLeft, BitVec.getLsbD_setWidth]
  by_cases h1 : b < 32
  · by_cases h2 : b < lo
    · have : ¬ lo ≤ b := by omega
      simp [h1, h2, this]
    · have h3 : lo ≤ b := by omega
      have h4 : b - lo < 32 := by omega
      simp [h1, h2, h3, h4]
  · simp [h1]

theorem getLsbD_enc (opc : BitVec 8) (d a b c e : Fin 8) (i : Nat) : (enc opc d a b c e).getLsbD i =
    ((decide (i < 32) && decide (24 ≤ i) && opc.getLsbD (i - 24)) ||
      (decide (i < 32) && decide (21 ≤ i) && (BitVec.ofFin d : BitVec 3).getLsbD (i - 21)) ||
      (decide (i < 32) && decide (18 ≤ i) && (BitVec.ofFin a : BitVec 3).getLsbD (i - 18)) ||
      (decide (i < 32) && decide (15 ≤ i) && (BitVec.ofFin b : BitVec 3).getLsbD (i - 15)) ||
      (decide (i < 32) && decide (12 ≤ i) && (BitVec.ofFin c : BitVec 3).getLsbD (i - 12)) ||
      (decide (i < 32) && decide (9 ≤ i) && (BitVec.ofFin e : BitVec 3).getLsbD (i - 9))) := by
  simp only [enc, BitVec.getLsbD_or, getLsbD_regBits, BitVec.getLsbD_shiftLeft, BitVec.getLsbD_setWidth]
  congr 5
  by_cases h1 : i < 32
  · by_cases h2 : i < 24
    · have : ¬ 24 ≤ i := by omega
      simp [h1, h2, this]
    · have h3 : 24 ≤ i := by omega
      have h4 : i - 24 < 32 := by omega
      simp [h1, h2, h3, h4]
  · simp [h1]

/-- The fields of an encoded word are the ones it was encoded from (R81, R85). -/
theorem fieldsOf_enc (opc : BitVec 8) (d a b c e : Fin 8) : fieldsOf (enc opc d a b c e) =
    ⟨opc, BitVec.ofFin d, BitVec.ofFin a, BitVec.ofFin b, BitVec.ofFin c, BitVec.ofFin e, 0, 0⟩ := by
  simp only [fieldsOf, Fields.mk.injEq]
  refine ⟨?_, ?_, ?_, ?_, ?_, ?_, ?_, ?_⟩ <;>
  · refine BitVec.eq_of_getLsbD_eq fun i hi => ?_
    rw [BitVec.getLsbD_extractLsb', getLsbD_enc]
    interval_cases i <;> simp [BitVec.getLsbD_of_ge]

/-- The F bit beside an encoded word (R83). -/
theorem fieldsOf_enc_f (opc : BitVec 8) (d a b c e : Fin 8) : fieldsOf (enc opc d a b c e ||| 0x100) =
    ⟨opc, BitVec.ofFin d, BitVec.ofFin a, BitVec.ofFin b, BitVec.ofFin c, BitVec.ofFin e, 1, 0⟩ := by
  simp only [fieldsOf, Fields.mk.injEq]
  refine ⟨?_, ?_, ?_, ?_, ?_, ?_, ?_, ?_⟩ <;>
  · refine BitVec.eq_of_getLsbD_eq fun i hi => ?_
    rw [BitVec.getLsbD_extractLsb', BitVec.getLsbD_or, getLsbD_enc]
    interval_cases i <;> simp [BitVec.getLsbD_of_ge]

/-- The word of a command has a legal opcode, RSV 0 and every unused field 0. -/
def EncodeWf.Statement (i : Instr) : Prop := (fieldsOf (encode i)).wellFormed = true

namespace EncodeWf

theorem nop : Statement .nop := by rfl

theorem init : Statement .init := by rfl

theorem clr : Statement .clr := by rfl

theorem ldg (d : QIdx) : Statement (.ldg d) := by
  simp only [Statement, encode, fieldsOf_enc]
  decide +revert

theorem ldn (d : KIdx) : Statement (.ldn d) := by
  simp only [Statement, encode, fieldsOf_enc]
  decide +revert

theorem movk (d a : KIdx) : Statement (.movk d a) := by
  simp only [Statement, encode, fieldsOf_enc]
  rfl

theorem movq (d a : QIdx) : Statement (.movq d a) := by
  simp only [Statement, encode, fieldsOf_enc]
  rfl

theorem modinv (d a : KIdx) (m : Modulus) : Statement (.modinv d a m) := by
  cases m
  · simp only [Statement, encode, modulusBit, BitVec.ofNat_eq_ofNat, BitVec.or_zero, fieldsOf_enc]
    rfl
  · simp only [Statement, encode, modulusBit, fieldsOf_enc_f]
    rfl

theorem decomp (d : QIdx) (a : KIdx) (f : Parity) : Statement (.decomp d a f) := by
  cases f
  · simp only [Statement, encode, parityField, BitVec.ofNat_eq_ofNat, BitVec.or_zero, fieldsOf_enc]
    rfl
  · simp only [Statement, encode, parityField, fieldsOf_enc_f]
    rfl

theorem padd (d a b : QIdx) : Statement (.padd d a b) := by
  simp only [Statement, encode, fieldsOf_enc]
  rfl

theorem pdbl (d a : QIdx) : Statement (.pdbl d a) := by
  simp only [Statement, encode, fieldsOf_enc]
  rfl

theorem smul (d : QIdx) (a : KIdx) (b : QIdx) : Statement (.smul d a b) := by
  simp only [Statement, encode, fieldsOf_enc]
  rfl

theorem dsmul (d : QIdx) (a : KIdx) (b : QIdx) (c : KIdx) (e : QIdx) : Statement (.dsmul d a b c e) := by
  simp only [Statement, encode, fieldsOf_enc]
  rfl

theorem peq (a b : QIdx) : Statement (.peq a b) := by
  simp only [Statement, encode, fieldsOf_enc]
  rfl

end EncodeWf

end Sys2Proof.Laws
end

