-- ==== Sys2Proof/Laws/Encoding.lean ====
section
/-! SUPPORT. A command word and its fields: what the mask test of `30_encoding.md` R84 and the encoder of R85 say field by
field. -/

namespace Sys2Proof.Laws

/-- The fields of R81 cover the word: two words with the same fields are the same word. -/
theorem word_eq_of_fieldsOf {w v : Word} (h : fieldsOf w = fieldsOf v) : w = v := by
  simp only [fieldsOf, Fields.mk.injEq] at h
  obtain ⟨h1, h2, h3, h4, h5, h6, h7, h8⟩ := h
  have bit : ∀ {lo n : Nat}, w.extractLsb' lo n = v.extractLsb' lo n → ∀ b, b < n → w.getLsbD (lo + b) = v.getLsbD (lo + b) := by
    intro lo n he b hb
    have := congrArg (BitVec.getLsbD · b) he
    simpa [hb] using this
  refine BitVec.eq_of_getLsbD_eq fun i hi => ?_
  by_cases h24 : 24 ≤ i
  · simpa [Nat.add_sub_cancel' h24] using bit h1 (i - 24) (by omega)
  by_cases h21 : 21 ≤ i
  · simpa [Nat.add_sub_cancel' h21] using bit h2 (i - 21) (by omega)
  by_cases h18 : 18 ≤ i
  · simpa [Nat.add_sub_cancel' h18] using bit h3 (i - 18) (by omega)
  by_cases h15 : 15 ≤ i
  · simpa [Nat.add_sub_cancel' h15] using bit h4 (i - 15) (by omega)
  by_cases h12 : 12 ≤ i
  · simpa [Nat.add_sub_cancel' h12] using bit h5 (i - 12) (by omega)
  by_cases h9 : 9 ≤ i
  · simpa [Nat.add_sub_cancel' h9] using bit h6 (i - 9) (by omega)
  by_cases h8' : 8 ≤ i
  · simpa [Nat.add_sub_cancel' h8'] using bit h7 (i - 8) (by omega)
  · simpa using bit h8 i (by omega)

/-- A mask acts on each field apart (R84). -/
theorem fieldsOf_and (w m : Word) : fieldsOf (w &&& m) =
    ⟨(fieldsOf w).opc &&& (fieldsOf m).opc, (fieldsOf w).d &&& (fieldsOf m).d, (fieldsOf w).a &&& (fieldsOf m).a,
      (fieldsOf w).b &&& (fieldsOf m).b, (fieldsOf w).c &&& (fieldsOf m).c, (fieldsOf w).e &&& (fieldsOf m).e,
      (fieldsOf w).f &&& (fieldsOf m).f, (fieldsOf w).rsv &&& (fieldsOf m).rsv⟩ := by
  simp only [fieldsOf, BitVec.extractLsb'_and]

/-- The row of R84 with these fields: what the mask test of op and format asks of a word. -/
abbrev MaskRow (o : BitVec 8) (op : Op) (fmt : Format) : Prop :=
  fieldsOf op.pattern = ⟨o, 0, 0, 0, 0, 0, 0, 0⟩ ∧ fieldsOf op.mask =
    ⟨BitVec.allOnes 8, if fmt.usesD then 0 else BitVec.allOnes 3, if fmt.usesA then 0 else BitVec.allOnes 3,
      if fmt.usesB then 0 else BitVec.allOnes 3, if fmt.usesCE then 0 else BitVec.allOnes 3,
      if fmt.usesCE then 0 else BitVec.allOnes 3, if fmt.usesF then 0 else BitVec.allOnes 1, BitVec.allOnes 8⟩

theorem maskRow_all : ∀ o : BitVec 8,
    ((lookupOp o).all fun op => (formatOf o).all fun fmt => decide (MaskRow o op fmt)) = true := by decide +kernel

theorem maskRow_of_lookup {o : BitVec 8} {op : Op} {fmt : Format} (ho : lookupOp o = some op)
    (hf : formatOf o = some fmt) : MaskRow o op fmt := by
  have := maskRow_all o
  rw [ho, hf] at this
  exact of_decide_eq_true this

/-- The mask test of R84 is R88: the opcode is the row's, and RSV and every unused field is 0. -/
theorem and_mask_eq_pattern_iff {w : Word} {op : Op} {fmt : Format} (ho : lookupOp (opcOf w) = some op)
    (hf : formatOf (opcOf w) = some fmt) : w &&& op.mask = op.pattern ↔ (fieldsOf w).respects fmt = true := by
  obtain ⟨hp, hm⟩ := maskRow_of_lookup ho hf
  have : w &&& op.mask = op.pattern ↔ fieldsOf (w &&& op.mask) = fieldsOf op.pattern :=
    ⟨congrArg fieldsOf, word_eq_of_fieldsOf⟩
  rw [this, fieldsOf_and, hp, hm, show opcOf w = (fieldsOf w).opc from rfl]
  have h8 : ∀ x : BitVec 8, x &&& BitVec.allOnes 8 = x := fun x => BitVec.and_allOnes
  have h3 : ∀ x : BitVec 3, x &&& BitVec.allOnes 3 = x := fun x => BitVec.and_allOnes
  have h1 : ∀ x : BitVec 1, x &&& BitVec.allOnes 1 = x := fun x => BitVec.and_allOnes
  simp only [h8, Fields.mk.injEq, true_and, Fields.respects, Bool.and_eq_true, Bool.or_eq_true, beq_iff_eq]
  cases fmt <;>
    simp only [Format.usesD, Format.usesA, Format.usesB, Format.usesCE, Format.usesF, if_true, Bool.false_eq_true, if_false,
      BitVec.ofNat_eq_ofNat, BitVec.and_zero, h3, h1, true_or, false_or, true_and, and_true] <;> tauto

end Sys2Proof.Laws
end

