-- ==== Sys2Proof/Laws/State.lean ====
section
/-! SUPPORT. One lemma per field per named update of State, true by computation, so that no later proof unfolds a record
update. -/

namespace Sys2Proof.Laws

open Sys2Proof.Machine

variable (s : State)

section writeK

@[simp] theorem writeK_k (d : KIdx) (v : U256) : (writeK d v s).k = s.k.set d v := rfl
@[simp] theorem writeK_kv (d : KIdx) (v : U256) : (writeK d v s).kv = s.kv.set d true := rfl
@[simp] theorem writeK_q (d : KIdx) (v : U256) : (writeK d v s).q = s.q := rfl
@[simp] theorem writeK_qv (d : KIdx) (v : U256) : (writeK d v s).qv = s.qv := rfl
@[simp] theorem writeK_done (d : KIdx) (v : U256) : (writeK d v s).done = s.done := rfl
@[simp] theorem writeK_flagNone (d : KIdx) (v : U256) : (writeK d v s).flagNone = s.flagNone := rfl
@[simp] theorem writeK_flagInf (d : KIdx) (v : U256) : (writeK d v s).flagInf = s.flagInf := rfl
@[simp] theorem writeK_flagEq (d : KIdx) (v : U256) : (writeK d v s).flagEq = s.flagEq := rfl
@[simp] theorem writeK_ready (d : KIdx) (v : U256) : (writeK d v s).ready = s.ready := rfl
@[simp] theorem writeK_err (d : KIdx) (v : U256) : (writeK d v s).err = s.err := rfl
@[simp] theorem writeK_errCmd (d : KIdx) (v : U256) : (writeK d v s).errCmd = s.errCmd := rfl
@[simp] theorem writeK_lastCmd (d : KIdx) (v : U256) : (writeK d v s).lastCmd = s.lastCmd := rfl
@[simp] theorem writeK_ie (d : KIdx) (v : U256) : (writeK d v s).ie = s.ie := rfl
@[simp] theorem writeK_inflight (d : KIdx) (v : U256) : (writeK d v s).inflight = s.inflight := rfl
@[simp] theorem writeK_resetLine (d : KIdx) (v : U256) : (writeK d v s).resetLine = s.resetLine := rfl
@[simp] theorem writeK_window (d : KIdx) (v : U256) : (writeK d v s).window = s.window := rfl
@[simp] theorem writeK_events (d : KIdx) (v : U256) : (writeK d v s).events = s.events := rfl
@[simp] theorem writeK_returned (d : KIdx) (v : U256) : (writeK d v s).returned = s.returned := rfl
@[simp] theorem writeK_draws (d : KIdx) (v : U256) : (writeK d v s).draws = s.draws := rfl

end writeK

section writeQ

@[simp] theorem writeQ_k (d : QIdx) (r : PointReg) : (writeQ d r s).k = s.k := rfl
@[simp] theorem writeQ_kv (d : QIdx) (r : PointReg) : (writeQ d r s).kv = s.kv := rfl
@[simp] theorem writeQ_q (d : QIdx) (r : PointReg) : (writeQ d r s).q = s.q.set d r := rfl
@[simp] theorem writeQ_qv (d : QIdx) (r : PointReg) : (writeQ d r s).qv = s.qv.set d true := rfl
@[simp] theorem writeQ_done (d : QIdx) (r : PointReg) : (writeQ d r s).done = s.done := rfl
@[simp] theorem writeQ_flagNone (d : QIdx) (r : PointReg) : (writeQ d r s).flagNone = s.flagNone := rfl
@[simp] theorem writeQ_flagInf (d : QIdx) (r : PointReg) : (writeQ d r s).flagInf = s.flagInf := rfl
@[simp] theorem writeQ_flagEq (d : QIdx) (r : PointReg) : (writeQ d r s).flagEq = s.flagEq := rfl
@[simp] theorem writeQ_ready (d : QIdx) (r : PointReg) : (writeQ d r s).ready = s.ready := rfl
@[simp] theorem writeQ_err (d : QIdx) (r : PointReg) : (writeQ d r s).err = s.err := rfl
@[simp] theorem writeQ_errCmd (d : QIdx) (r : PointReg) : (writeQ d r s).errCmd = s.errCmd := rfl
@[simp] theorem writeQ_lastCmd (d : QIdx) (r : PointReg) : (writeQ d r s).lastCmd = s.lastCmd := rfl
@[simp] theorem writeQ_ie (d : QIdx) (r : PointReg) : (writeQ d r s).ie = s.ie := rfl
@[simp] theorem writeQ_inflight (d : QIdx) (r : PointReg) : (writeQ d r s).inflight = s.inflight := rfl
@[simp] theorem writeQ_resetLine (d : QIdx) (r : PointReg) : (writeQ d r s).resetLine = s.resetLine := rfl
@[simp] theorem writeQ_window (d : QIdx) (r : PointReg) : (writeQ d r s).window = s.window := rfl
@[simp] theorem writeQ_events (d : QIdx) (r : PointReg) : (writeQ d r s).events = s.events := rfl
@[simp] theorem writeQ_returned (d : QIdx) (r : PointReg) : (writeQ d r s).returned = s.returned := rfl
@[simp] theorem writeQ_draws (d : QIdx) (r : PointReg) : (writeQ d r s).draws = s.draws := rfl

end writeQ

section writePt

@[simp] theorem writePt_k (d : QIdx) (p : Point) : (writePt d p s).k = s.k := rfl
@[simp] theorem writePt_kv (d : QIdx) (p : Point) : (writePt d p s).kv = s.kv := rfl
@[simp] theorem writePt_q (d : QIdx) (p : Point) : (writePt d p s).q = s.q.set d (PointReg.ofPoint p) := rfl
@[simp] theorem writePt_qv (d : QIdx) (p : Point) : (writePt d p s).qv = s.qv.set d true := rfl
@[simp] theorem writePt_done (d : QIdx) (p : Point) : (writePt d p s).done = s.done := rfl
@[simp] theorem writePt_flagNone (d : QIdx) (p : Point) : (writePt d p s).flagNone = s.flagNone := rfl
@[simp] theorem writePt_flagInf (d : QIdx) (p : Point) : (writePt d p s).flagInf = s.flagInf := rfl
@[simp] theorem writePt_flagEq (d : QIdx) (p : Point) : (writePt d p s).flagEq = s.flagEq := rfl
@[simp] theorem writePt_ready (d : QIdx) (p : Point) : (writePt d p s).ready = s.ready := rfl
@[simp] theorem writePt_err (d : QIdx) (p : Point) : (writePt d p s).err = s.err := rfl
@[simp] theorem writePt_errCmd (d : QIdx) (p : Point) : (writePt d p s).errCmd = s.errCmd := rfl
@[simp] theorem writePt_lastCmd (d : QIdx) (p : Point) : (writePt d p s).lastCmd = s.lastCmd := rfl
@[simp] theorem writePt_ie (d : QIdx) (p : Point) : (writePt d p s).ie = s.ie := rfl
@[simp] theorem writePt_inflight (d : QIdx) (p : Point) : (writePt d p s).inflight = s.inflight := rfl
@[simp] theorem writePt_resetLine (d : QIdx) (p : Point) : (writePt d p s).resetLine = s.resetLine := rfl
@[simp] theorem writePt_window (d : QIdx) (p : Point) : (writePt d p s).window = s.window := rfl
@[simp] theorem writePt_events (d : QIdx) (p : Point) : (writePt d p s).events = s.events := rfl
@[simp] theorem writePt_returned (d : QIdx) (p : Point) : (writePt d p s).returned = s.returned := rfl
@[simp] theorem writePt_draws (d : QIdx) (p : Point) : (writePt d p s).draws = s.draws := rfl

end writePt

section clearRegs

@[simp] theorem clearRegs_k : (clearRegs s).k = Vector.replicate 8 0 := rfl
@[simp] theorem clearRegs_kv : (clearRegs s).kv = Vector.replicate 8 false := rfl
@[simp] theorem clearRegs_q : (clearRegs s).q = Vector.replicate 8 PointReg.zero := rfl
@[simp] theorem clearRegs_qv : (clearRegs s).qv = Vector.replicate 8 false := rfl
@[simp] theorem clearRegs_done : (clearRegs s).done = s.done := rfl
@[simp] theorem clearRegs_flagNone : (clearRegs s).flagNone = s.flagNone := rfl
@[simp] theorem clearRegs_flagInf : (clearRegs s).flagInf = s.flagInf := rfl
@[simp] theorem clearRegs_flagEq : (clearRegs s).flagEq = s.flagEq := rfl
@[simp] theorem clearRegs_ready : (clearRegs s).ready = s.ready := rfl
@[simp] theorem clearRegs_err : (clearRegs s).err = s.err := rfl
@[simp] theorem clearRegs_errCmd : (clearRegs s).errCmd = s.errCmd := rfl
@[simp] theorem clearRegs_lastCmd : (clearRegs s).lastCmd = s.lastCmd := rfl
@[simp] theorem clearRegs_ie : (clearRegs s).ie = s.ie := rfl
@[simp] theorem clearRegs_inflight : (clearRegs s).inflight = s.inflight := rfl
@[simp] theorem clearRegs_resetLine : (clearRegs s).resetLine = s.resetLine := rfl
@[simp] theorem clearRegs_window : (clearRegs s).window = s.window := rfl
@[simp] theorem clearRegs_events : (clearRegs s).events = s.events := rfl
@[simp] theorem clearRegs_returned : (clearRegs s).returned = s.returned := rfl
@[simp] theorem clearRegs_draws : (clearRegs s).draws = s.draws := rfl

end clearRegs

section setFlags

@[simp] theorem setFlags_k (a b c : Bool) : (setFlags a b c s).k = s.k := rfl
@[simp] theorem setFlags_kv (a b c : Bool) : (setFlags a b c s).kv = s.kv := rfl
@[simp] theorem setFlags_q (a b c : Bool) : (setFlags a b c s).q = s.q := rfl
@[simp] theorem setFlags_qv (a b c : Bool) : (setFlags a b c s).qv = s.qv := rfl
@[simp] theorem setFlags_done (a b c : Bool) : (setFlags a b c s).done = s.done := rfl
@[simp] theorem setFlags_flagNone (a b c : Bool) : (setFlags a b c s).flagNone = a := rfl
@[simp] theorem setFlags_flagInf (a b c : Bool) : (setFlags a b c s).flagInf = b := rfl
@[simp] theorem setFlags_flagEq (a b c : Bool) : (setFlags a b c s).flagEq = c := rfl
@[simp] theorem setFlags_ready (a b c : Bool) : (setFlags a b c s).ready = s.ready := rfl
@[simp] theorem setFlags_err (a b c : Bool) : (setFlags a b c s).err = s.err := rfl
@[simp] theorem setFlags_errCmd (a b c : Bool) : (setFlags a b c s).errCmd = s.errCmd := rfl
@[simp] theorem setFlags_lastCmd (a b c : Bool) : (setFlags a b c s).lastCmd = s.lastCmd := rfl
@[simp] theorem setFlags_ie (a b c : Bool) : (setFlags a b c s).ie = s.ie := rfl
@[simp] theorem setFlags_inflight (a b c : Bool) : (setFlags a b c s).inflight = s.inflight := rfl
@[simp] theorem setFlags_resetLine (a b c : Bool) : (setFlags a b c s).resetLine = s.resetLine := rfl
@[simp] theorem setFlags_window (a b c : Bool) : (setFlags a b c s).window = s.window := rfl
@[simp] theorem setFlags_events (a b c : Bool) : (setFlags a b c s).events = s.events := rfl
@[simp] theorem setFlags_returned (a b c : Bool) : (setFlags a b c s).returned = s.returned := rfl
@[simp] theorem setFlags_draws (a b c : Bool) : (setFlags a b c s).draws = s.draws := rfl

end setFlags

section setReady

@[simp] theorem setReady_k : (setReady s).k = s.k := rfl
@[simp] theorem setReady_kv : (setReady s).kv = s.kv := rfl
@[simp] theorem setReady_q : (setReady s).q = s.q := rfl
@[simp] theorem setReady_qv : (setReady s).qv = s.qv := rfl
@[simp] theorem setReady_done : (setReady s).done = s.done := rfl
@[simp] theorem setReady_flagNone : (setReady s).flagNone = s.flagNone := rfl
@[simp] theorem setReady_flagInf : (setReady s).flagInf = s.flagInf := rfl
@[simp] theorem setReady_flagEq : (setReady s).flagEq = s.flagEq := rfl
@[simp] theorem setReady_ready : (setReady s).ready = true := rfl
@[simp] theorem setReady_err : (setReady s).err = s.err := rfl
@[simp] theorem setReady_errCmd : (setReady s).errCmd = s.errCmd := rfl
@[simp] theorem setReady_lastCmd : (setReady s).lastCmd = s.lastCmd := rfl
@[simp] theorem setReady_ie : (setReady s).ie = s.ie := rfl
@[simp] theorem setReady_inflight : (setReady s).inflight = s.inflight := rfl
@[simp] theorem setReady_resetLine : (setReady s).resetLine = s.resetLine := rfl
@[simp] theorem setReady_window : (setReady s).window = s.window := rfl
@[simp] theorem setReady_events : (setReady s).events = s.events := rfl
@[simp] theorem setReady_returned : (setReady s).returned = s.returned := rfl
@[simp] theorem setReady_draws : (setReady s).draws = s.draws := rfl

end setReady

section clearErr

@[simp] theorem clearErr_k : (clearErr s).k = s.k := rfl
@[simp] theorem clearErr_kv : (clearErr s).kv = s.kv := rfl
@[simp] theorem clearErr_q : (clearErr s).q = s.q := rfl
@[simp] theorem clearErr_qv : (clearErr s).qv = s.qv := rfl
@[simp] theorem clearErr_done : (clearErr s).done = s.done := rfl
@[simp] theorem clearErr_flagNone : (clearErr s).flagNone = s.flagNone := rfl
@[simp] theorem clearErr_flagInf : (clearErr s).flagInf = s.flagInf := rfl
@[simp] theorem clearErr_flagEq : (clearErr s).flagEq = s.flagEq := rfl
@[simp] theorem clearErr_ready : (clearErr s).ready = s.ready := rfl
@[simp] theorem clearErr_err : (clearErr s).err = .noError := rfl
@[simp] theorem clearErr_errCmd : (clearErr s).errCmd = s.errCmd := rfl
@[simp] theorem clearErr_lastCmd : (clearErr s).lastCmd = s.lastCmd := rfl
@[simp] theorem clearErr_ie : (clearErr s).ie = s.ie := rfl
@[simp] theorem clearErr_inflight : (clearErr s).inflight = s.inflight := rfl
@[simp] theorem clearErr_resetLine : (clearErr s).resetLine = s.resetLine := rfl
@[simp] theorem clearErr_window : (clearErr s).window = s.window := rfl
@[simp] theorem clearErr_events : (clearErr s).events = s.events := rfl
@[simp] theorem clearErr_returned : (clearErr s).returned = s.returned := rfl
@[simp] theorem clearErr_draws : (clearErr s).draws = s.draws := rfl

end clearErr

section clearDone

@[simp] theorem clearDone_k : (clearDone s).k = s.k := rfl
@[simp] theorem clearDone_kv : (clearDone s).kv = s.kv := rfl
@[simp] theorem clearDone_q : (clearDone s).q = s.q := rfl
@[simp] theorem clearDone_qv : (clearDone s).qv = s.qv := rfl
@[simp] theorem clearDone_done : (clearDone s).done = false := rfl
@[simp] theorem clearDone_flagNone : (clearDone s).flagNone = s.flagNone := rfl
@[simp] theorem clearDone_flagInf : (clearDone s).flagInf = s.flagInf := rfl
@[simp] theorem clearDone_flagEq : (clearDone s).flagEq = s.flagEq := rfl
@[simp] theorem clearDone_ready : (clearDone s).ready = s.ready := rfl
@[simp] theorem clearDone_err : (clearDone s).err = s.err := rfl
@[simp] theorem clearDone_errCmd : (clearDone s).errCmd = s.errCmd := rfl
@[simp] theorem clearDone_lastCmd : (clearDone s).lastCmd = s.lastCmd := rfl
@[simp] theorem clearDone_ie : (clearDone s).ie = s.ie := rfl
@[simp] theorem clearDone_inflight : (clearDone s).inflight = s.inflight := rfl
@[simp] theorem clearDone_resetLine : (clearDone s).resetLine = s.resetLine := rfl
@[simp] theorem clearDone_window : (clearDone s).window = s.window := rfl
@[simp] theorem clearDone_events : (clearDone s).events = s.events := rfl
@[simp] theorem clearDone_returned : (clearDone s).returned = s.returned := rfl
@[simp] theorem clearDone_draws : (clearDone s).draws = s.draws := rfl

end clearDone

section writeCtrl

@[simp] theorem writeCtrl_k (v : Word) : (writeCtrl v s).k = s.k := rfl
@[simp] theorem writeCtrl_kv (v : Word) : (writeCtrl v s).kv = s.kv := rfl
@[simp] theorem writeCtrl_q (v : Word) : (writeCtrl v s).q = s.q := rfl
@[simp] theorem writeCtrl_qv (v : Word) : (writeCtrl v s).qv = s.qv := rfl
@[simp] theorem writeCtrl_done (v : Word) : (writeCtrl v s).done = s.done := rfl
@[simp] theorem writeCtrl_flagNone (v : Word) : (writeCtrl v s).flagNone = s.flagNone := rfl
@[simp] theorem writeCtrl_flagInf (v : Word) : (writeCtrl v s).flagInf = s.flagInf := rfl
@[simp] theorem writeCtrl_flagEq (v : Word) : (writeCtrl v s).flagEq = s.flagEq := rfl
@[simp] theorem writeCtrl_ready (v : Word) : (writeCtrl v s).ready = s.ready := rfl
@[simp] theorem writeCtrl_err (v : Word) : (writeCtrl v s).err = s.err := rfl
@[simp] theorem writeCtrl_errCmd (v : Word) : (writeCtrl v s).errCmd = s.errCmd := rfl
@[simp] theorem writeCtrl_lastCmd (v : Word) : (writeCtrl v s).lastCmd = s.lastCmd := rfl
@[simp] theorem writeCtrl_ie (v : Word) : (writeCtrl v s).ie = v.getLsbD 0 := rfl
@[simp] theorem writeCtrl_inflight (v : Word) : (writeCtrl v s).inflight = s.inflight := rfl
@[simp] theorem writeCtrl_resetLine (v : Word) : (writeCtrl v s).resetLine = s.resetLine := rfl
@[simp] theorem writeCtrl_window (v : Word) : (writeCtrl v s).window = s.window := rfl
@[simp] theorem writeCtrl_events (v : Word) : (writeCtrl v s).events = s.events := rfl
@[simp] theorem writeCtrl_returned (v : Word) : (writeCtrl v s).returned = s.returned := rfl
@[simp] theorem writeCtrl_draws (v : Word) : (writeCtrl v s).draws = s.draws := rfl

end writeCtrl

section writeStatus

@[simp] theorem writeStatus_k (v : Word) : (writeStatus v s).k = s.k := by
  simp only [writeStatus, clearErr, clearDone]; cases v.getLsbD 1 <;> cases v.getLsbD 31 <;> simp
@[simp] theorem writeStatus_kv (v : Word) : (writeStatus v s).kv = s.kv := by
  simp only [writeStatus, clearErr, clearDone]; cases v.getLsbD 1 <;> cases v.getLsbD 31 <;> simp
@[simp] theorem writeStatus_q (v : Word) : (writeStatus v s).q = s.q := by
  simp only [writeStatus, clearErr, clearDone]; cases v.getLsbD 1 <;> cases v.getLsbD 31 <;> simp
@[simp] theorem writeStatus_qv (v : Word) : (writeStatus v s).qv = s.qv := by
  simp only [writeStatus, clearErr, clearDone]; cases v.getLsbD 1 <;> cases v.getLsbD 31 <;> simp
@[simp] theorem writeStatus_done (v : Word) : (writeStatus v s).done = (s.done && !v.getLsbD 1) := by
  simp only [writeStatus, clearErr, clearDone]; cases v.getLsbD 1 <;> cases v.getLsbD 31 <;> simp
@[simp] theorem writeStatus_flagNone (v : Word) : (writeStatus v s).flagNone = s.flagNone := by
  simp only [writeStatus, clearErr, clearDone]; cases v.getLsbD 1 <;> cases v.getLsbD 31 <;> simp
@[simp] theorem writeStatus_flagInf (v : Word) : (writeStatus v s).flagInf = s.flagInf := by
  simp only [writeStatus, clearErr, clearDone]; cases v.getLsbD 1 <;> cases v.getLsbD 31 <;> simp
@[simp] theorem writeStatus_flagEq (v : Word) : (writeStatus v s).flagEq = s.flagEq := by
  simp only [writeStatus, clearErr, clearDone]; cases v.getLsbD 1 <;> cases v.getLsbD 31 <;> simp
@[simp] theorem writeStatus_ready (v : Word) : (writeStatus v s).ready = s.ready := by
  simp only [writeStatus, clearErr, clearDone]; cases v.getLsbD 1 <;> cases v.getLsbD 31 <;> simp
@[simp] theorem writeStatus_err (v : Word) : (writeStatus v s).err = if v.getLsbD 31 then .noError else s.err := by
  simp only [writeStatus, clearErr, clearDone]; cases v.getLsbD 1 <;> cases v.getLsbD 31 <;> simp
@[simp] theorem writeStatus_errCmd (v : Word) : (writeStatus v s).errCmd = s.errCmd := by
  simp only [writeStatus, clearErr, clearDone]; cases v.getLsbD 1 <;> cases v.getLsbD 31 <;> simp
@[simp] theorem writeStatus_lastCmd (v : Word) : (writeStatus v s).lastCmd = s.lastCmd := by
  simp only [writeStatus, clearErr, clearDone]; cases v.getLsbD 1 <;> cases v.getLsbD 31 <;> simp
@[simp] theorem writeStatus_ie (v : Word) : (writeStatus v s).ie = s.ie := by
  simp only [writeStatus, clearErr, clearDone]; cases v.getLsbD 1 <;> cases v.getLsbD 31 <;> simp
@[simp] theorem writeStatus_inflight (v : Word) : (writeStatus v s).inflight = s.inflight := by
  simp only [writeStatus, clearErr, clearDone]; cases v.getLsbD 1 <;> cases v.getLsbD 31 <;> simp
@[simp] theorem writeStatus_resetLine (v : Word) : (writeStatus v s).resetLine = s.resetLine := by
  simp only [writeStatus, clearErr, clearDone]; cases v.getLsbD 1 <;> cases v.getLsbD 31 <;> simp
@[simp] theorem writeStatus_window (v : Word) : (writeStatus v s).window = s.window := by
  simp only [writeStatus, clearErr, clearDone]; cases v.getLsbD 1 <;> cases v.getLsbD 31 <;> simp
@[simp] theorem writeStatus_events (v : Word) : (writeStatus v s).events = s.events := by
  simp only [writeStatus, clearErr, clearDone]; cases v.getLsbD 1 <;> cases v.getLsbD 31 <;> simp
@[simp] theorem writeStatus_returned (v : Word) : (writeStatus v s).returned = s.returned := by
  simp only [writeStatus, clearErr, clearDone]; cases v.getLsbD 1 <;> cases v.getLsbD 31 <;> simp
@[simp] theorem writeStatus_draws (v : Word) : (writeStatus v s).draws = s.draws := by
  simp only [writeStatus, clearErr, clearDone]; cases v.getLsbD 1 <;> cases v.getLsbD 31 <;> simp

end writeStatus

section record

@[simp] theorem record_k (e : ErrCode) (v : Word) : (record e v s).k = s.k := by
  simp only [record]; split <;> rfl
@[simp] theorem record_kv (e : ErrCode) (v : Word) : (record e v s).kv = s.kv := by
  simp only [record]; split <;> rfl
@[simp] theorem record_q (e : ErrCode) (v : Word) : (record e v s).q = s.q := by
  simp only [record]; split <;> rfl
@[simp] theorem record_qv (e : ErrCode) (v : Word) : (record e v s).qv = s.qv := by
  simp only [record]; split <;> rfl
@[simp] theorem record_done (e : ErrCode) (v : Word) : (record e v s).done = s.done := by
  simp only [record]; split <;> rfl
@[simp] theorem record_flagNone (e : ErrCode) (v : Word) : (record e v s).flagNone = s.flagNone := by
  simp only [record]; split <;> rfl
@[simp] theorem record_flagInf (e : ErrCode) (v : Word) : (record e v s).flagInf = s.flagInf := by
  simp only [record]; split <;> rfl
@[simp] theorem record_flagEq (e : ErrCode) (v : Word) : (record e v s).flagEq = s.flagEq := by
  simp only [record]; split <;> rfl
@[simp] theorem record_ready (e : ErrCode) (v : Word) : (record e v s).ready = s.ready := by
  simp only [record]; split <;> rfl
@[simp] theorem record_err (e : ErrCode) (v : Word) : (record e v s).err = if s.err = .noError then e else s.err := by
  simp only [record]; split <;> rfl
@[simp] theorem record_errCmd (e : ErrCode) (v : Word) : (record e v s).errCmd = if s.err = .noError then v else s.errCmd := by
  simp only [record]; split <;> rfl
@[simp] theorem record_lastCmd (e : ErrCode) (v : Word) : (record e v s).lastCmd = s.lastCmd := by
  simp only [record]; split <;> rfl
@[simp] theorem record_ie (e : ErrCode) (v : Word) : (record e v s).ie = s.ie := by
  simp only [record]; split <;> rfl
@[simp] theorem record_inflight (e : ErrCode) (v : Word) : (record e v s).inflight = s.inflight := by
  simp only [record]; split <;> rfl
@[simp] theorem record_resetLine (e : ErrCode) (v : Word) : (record e v s).resetLine = s.resetLine := by
  simp only [record]; split <;> rfl
@[simp] theorem record_window (e : ErrCode) (v : Word) : (record e v s).window = s.window := by
  simp only [record]; split <;> rfl
@[simp] theorem record_events (e : ErrCode) (v : Word) : (record e v s).events = s.events := by
  simp only [record]; split <;> rfl
@[simp] theorem record_returned (e : ErrCode) (v : Word) : (record e v s).returned = s.returned := by
  simp only [record]; split <;> rfl
@[simp] theorem record_draws (e : ErrCode) (v : Word) : (record e v s).draws = s.draws := by
  simp only [record]; split <;> rfl

end record

section reject

@[simp] theorem reject_k (e : ErrCode) (w : Word) : (reject e w s).k = s.k := by
  simp only [reject, record]; split <;> rfl
@[simp] theorem reject_kv (e : ErrCode) (w : Word) : (reject e w s).kv = s.kv := by
  simp only [reject, record]; split <;> rfl
@[simp] theorem reject_q (e : ErrCode) (w : Word) : (reject e w s).q = s.q := by
  simp only [reject, record]; split <;> rfl
@[simp] theorem reject_qv (e : ErrCode) (w : Word) : (reject e w s).qv = s.qv := by
  simp only [reject, record]; split <;> rfl
@[simp] theorem reject_done (e : ErrCode) (w : Word) : (reject e w s).done = true := rfl
@[simp] theorem reject_flagNone (e : ErrCode) (w : Word) : (reject e w s).flagNone = s.flagNone := by
  simp only [reject, record]; split <;> rfl
@[simp] theorem reject_flagInf (e : ErrCode) (w : Word) : (reject e w s).flagInf = s.flagInf := by
  simp only [reject, record]; split <;> rfl
@[simp] theorem reject_flagEq (e : ErrCode) (w : Word) : (reject e w s).flagEq = s.flagEq := by
  simp only [reject, record]; split <;> rfl
@[simp] theorem reject_ready (e : ErrCode) (w : Word) : (reject e w s).ready = s.ready := by
  simp only [reject, record]; split <;> rfl
@[simp] theorem reject_err (e : ErrCode) (w : Word) : (reject e w s).err = if s.err = .noError then e else s.err := by
  simp only [reject, record]; split <;> rfl
@[simp] theorem reject_errCmd (e : ErrCode) (w : Word) : (reject e w s).errCmd = if s.err = .noError then w else s.errCmd := by
  simp only [reject, record]; split <;> rfl
@[simp] theorem reject_lastCmd (e : ErrCode) (w : Word) : (reject e w s).lastCmd = s.lastCmd := by
  simp only [reject, record]; split <;> rfl
@[simp] theorem reject_ie (e : ErrCode) (w : Word) : (reject e w s).ie = s.ie := by
  simp only [reject, record]; split <;> rfl
@[simp] theorem reject_inflight (e : ErrCode) (w : Word) : (reject e w s).inflight = s.inflight := by
  simp only [reject, record]; split <;> rfl
@[simp] theorem reject_resetLine (e : ErrCode) (w : Word) : (reject e w s).resetLine = s.resetLine := by
  simp only [reject, record]; split <;> rfl
@[simp] theorem reject_window (e : ErrCode) (w : Word) : (reject e w s).window = s.window := by
  simp only [reject, record]; split <;> rfl
@[simp] theorem reject_events (e : ErrCode) (w : Word) : (reject e w s).events = s.events := by
  simp only [reject, record]; split <;> rfl
@[simp] theorem reject_returned (e : ErrCode) (w : Word) : (reject e w s).returned = s.returned := by
  simp only [reject, record]; split <;> rfl
@[simp] theorem reject_draws (e : ErrCode) (w : Word) : (reject e w s).draws = s.draws := by
  simp only [reject, record]; split <;> rfl

end reject

section start

@[simp] theorem start_k (w : Word) : (start w s).k = s.k := rfl
@[simp] theorem start_kv (w : Word) : (start w s).kv = s.kv := rfl
@[simp] theorem start_q (w : Word) : (start w s).q = s.q := rfl
@[simp] theorem start_qv (w : Word) : (start w s).qv = s.qv := rfl
@[simp] theorem start_done (w : Word) : (start w s).done = s.done := rfl
@[simp] theorem start_flagNone (w : Word) : (start w s).flagNone = s.flagNone := rfl
@[simp] theorem start_flagInf (w : Word) : (start w s).flagInf = s.flagInf := rfl
@[simp] theorem start_flagEq (w : Word) : (start w s).flagEq = s.flagEq := rfl
@[simp] theorem start_ready (w : Word) : (start w s).ready = s.ready := rfl
@[simp] theorem start_err (w : Word) : (start w s).err = s.err := rfl
@[simp] theorem start_errCmd (w : Word) : (start w s).errCmd = s.errCmd := rfl
@[simp] theorem start_lastCmd (w : Word) : (start w s).lastCmd = w := rfl
@[simp] theorem start_ie (w : Word) : (start w s).ie = s.ie := rfl
@[simp] theorem start_inflight (w : Word) : (start w s).inflight = some w := rfl
@[simp] theorem start_resetLine (w : Word) : (start w s).resetLine = s.resetLine := rfl
@[simp] theorem start_window (w : Word) : (start w s).window = s.window := rfl
@[simp] theorem start_events (w : Word) : (start w s).events = s.events := rfl
@[simp] theorem start_returned (w : Word) : (start w s).returned = s.returned := rfl
@[simp] theorem start_draws (w : Word) : (start w s).draws = s.draws := rfl

end start

section complete

@[simp] theorem complete_k : (complete s).k = s.k := rfl
@[simp] theorem complete_kv : (complete s).kv = s.kv := rfl
@[simp] theorem complete_q : (complete s).q = s.q := rfl
@[simp] theorem complete_qv : (complete s).qv = s.qv := rfl
@[simp] theorem complete_done : (complete s).done = true := rfl
@[simp] theorem complete_flagNone : (complete s).flagNone = s.flagNone := rfl
@[simp] theorem complete_flagInf : (complete s).flagInf = s.flagInf := rfl
@[simp] theorem complete_flagEq : (complete s).flagEq = s.flagEq := rfl
@[simp] theorem complete_ready : (complete s).ready = s.ready := rfl
@[simp] theorem complete_err : (complete s).err = s.err := rfl
@[simp] theorem complete_errCmd : (complete s).errCmd = s.errCmd := rfl
@[simp] theorem complete_lastCmd : (complete s).lastCmd = s.lastCmd := rfl
@[simp] theorem complete_ie : (complete s).ie = s.ie := rfl
@[simp] theorem complete_inflight : (complete s).inflight = none := rfl
@[simp] theorem complete_resetLine : (complete s).resetLine = s.resetLine := rfl
@[simp] theorem complete_window : (complete s).window = s.window := rfl
@[simp] theorem complete_events : (complete s).events = s.events := rfl
@[simp] theorem complete_returned : (complete s).returned = s.returned := rfl
@[simp] theorem complete_draws : (complete s).draws = s.draws := rfl

end complete

section respond

@[simp] theorem respond_k (v : Word) : (respond v s).k = s.k := rfl
@[simp] theorem respond_kv (v : Word) : (respond v s).kv = s.kv := rfl
@[simp] theorem respond_q (v : Word) : (respond v s).q = s.q := rfl
@[simp] theorem respond_qv (v : Word) : (respond v s).qv = s.qv := rfl
@[simp] theorem respond_done (v : Word) : (respond v s).done = s.done := rfl
@[simp] theorem respond_flagNone (v : Word) : (respond v s).flagNone = s.flagNone := rfl
@[simp] theorem respond_flagInf (v : Word) : (respond v s).flagInf = s.flagInf := rfl
@[simp] theorem respond_flagEq (v : Word) : (respond v s).flagEq = s.flagEq := rfl
@[simp] theorem respond_ready (v : Word) : (respond v s).ready = s.ready := rfl
@[simp] theorem respond_err (v : Word) : (respond v s).err = s.err := rfl
@[simp] theorem respond_errCmd (v : Word) : (respond v s).errCmd = s.errCmd := rfl
@[simp] theorem respond_lastCmd (v : Word) : (respond v s).lastCmd = s.lastCmd := rfl
@[simp] theorem respond_ie (v : Word) : (respond v s).ie = s.ie := rfl
@[simp] theorem respond_inflight (v : Word) : (respond v s).inflight = s.inflight := rfl
@[simp] theorem respond_resetLine (v : Word) : (respond v s).resetLine = s.resetLine := rfl
@[simp] theorem respond_window (v : Word) : (respond v s).window = s.window := rfl
@[simp] theorem respond_events (v : Word) : (respond v s).events = s.events := rfl
@[simp] theorem respond_returned (v : Word) : (respond v s).returned = s.returned ++ [v] := rfl
@[simp] theorem respond_draws (v : Word) : (respond v s).draws = s.draws := rfl

end respond

section respondFree

@[simp] theorem respondFree_k : (respondFree s).k = s.k := rfl
@[simp] theorem respondFree_kv : (respondFree s).kv = s.kv := rfl
@[simp] theorem respondFree_q : (respondFree s).q = s.q := rfl
@[simp] theorem respondFree_qv : (respondFree s).qv = s.qv := rfl
@[simp] theorem respondFree_done : (respondFree s).done = s.done := rfl
@[simp] theorem respondFree_flagNone : (respondFree s).flagNone = s.flagNone := rfl
@[simp] theorem respondFree_flagInf : (respondFree s).flagInf = s.flagInf := rfl
@[simp] theorem respondFree_flagEq : (respondFree s).flagEq = s.flagEq := rfl
@[simp] theorem respondFree_ready : (respondFree s).ready = s.ready := rfl
@[simp] theorem respondFree_err : (respondFree s).err = s.err := rfl
@[simp] theorem respondFree_errCmd : (respondFree s).errCmd = s.errCmd := rfl
@[simp] theorem respondFree_lastCmd : (respondFree s).lastCmd = s.lastCmd := rfl
@[simp] theorem respondFree_ie : (respondFree s).ie = s.ie := rfl
@[simp] theorem respondFree_inflight : (respondFree s).inflight = s.inflight := rfl
@[simp] theorem respondFree_resetLine : (respondFree s).resetLine = s.resetLine := rfl
@[simp] theorem respondFree_window : (respondFree s).window = s.window := rfl
@[simp] theorem respondFree_events : (respondFree s).events = s.events := rfl
@[simp] theorem respondFree_returned : (respondFree s).returned = s.returned ++ [Config.busyRead s.draws] := rfl
@[simp] theorem respondFree_draws : (respondFree s).draws = s.draws + 1 := rfl

end respondFree

section releaseReset

@[simp] theorem releaseReset_k : (releaseReset s).k = s.k := rfl
@[simp] theorem releaseReset_kv : (releaseReset s).kv = s.kv := rfl
@[simp] theorem releaseReset_q : (releaseReset s).q = s.q := rfl
@[simp] theorem releaseReset_qv : (releaseReset s).qv = s.qv := rfl
@[simp] theorem releaseReset_done : (releaseReset s).done = s.done := rfl
@[simp] theorem releaseReset_flagNone : (releaseReset s).flagNone = s.flagNone := rfl
@[simp] theorem releaseReset_flagInf : (releaseReset s).flagInf = s.flagInf := rfl
@[simp] theorem releaseReset_flagEq : (releaseReset s).flagEq = s.flagEq := rfl
@[simp] theorem releaseReset_ready : (releaseReset s).ready = s.ready := rfl
@[simp] theorem releaseReset_err : (releaseReset s).err = s.err := rfl
@[simp] theorem releaseReset_errCmd : (releaseReset s).errCmd = s.errCmd := rfl
@[simp] theorem releaseReset_lastCmd : (releaseReset s).lastCmd = s.lastCmd := rfl
@[simp] theorem releaseReset_ie : (releaseReset s).ie = s.ie := rfl
@[simp] theorem releaseReset_inflight : (releaseReset s).inflight = s.inflight := rfl
@[simp] theorem releaseReset_resetLine : (releaseReset s).resetLine = false := rfl
@[simp] theorem releaseReset_window : (releaseReset s).window = s.window := rfl
@[simp] theorem releaseReset_events : (releaseReset s).events = s.events := rfl
@[simp] theorem releaseReset_returned : (releaseReset s).returned = s.returned := rfl
@[simp] theorem releaseReset_draws : (releaseReset s).draws = s.draws := rfl

end releaseReset

section assertReset

@[simp] theorem assertReset_k : (assertReset s).k = State.reset.k := rfl
@[simp] theorem assertReset_kv : (assertReset s).kv = State.reset.kv := rfl
@[simp] theorem assertReset_q : (assertReset s).q = State.reset.q := rfl
@[simp] theorem assertReset_qv : (assertReset s).qv = State.reset.qv := rfl
@[simp] theorem assertReset_done : (assertReset s).done = State.reset.done := rfl
@[simp] theorem assertReset_flagNone : (assertReset s).flagNone = State.reset.flagNone := rfl
@[simp] theorem assertReset_flagInf : (assertReset s).flagInf = State.reset.flagInf := rfl
@[simp] theorem assertReset_flagEq : (assertReset s).flagEq = State.reset.flagEq := rfl
@[simp] theorem assertReset_ready : (assertReset s).ready = State.reset.ready := rfl
@[simp] theorem assertReset_err : (assertReset s).err = State.reset.err := rfl
@[simp] theorem assertReset_errCmd : (assertReset s).errCmd = State.reset.errCmd := rfl
@[simp] theorem assertReset_lastCmd : (assertReset s).lastCmd = State.reset.lastCmd := rfl
@[simp] theorem assertReset_ie : (assertReset s).ie = State.reset.ie := rfl
@[simp] theorem assertReset_inflight : (assertReset s).inflight = State.reset.inflight := rfl
@[simp] theorem assertReset_resetLine : (assertReset s).resetLine = true := rfl
@[simp] theorem assertReset_window : (assertReset s).window = s.window := rfl
@[simp] theorem assertReset_events : (assertReset s).events = s.events := rfl
@[simp] theorem assertReset_returned : (assertReset s).returned = s.returned := rfl
@[simp] theorem assertReset_draws : (assertReset s).draws = s.draws := rfl

end assertReset

end Sys2Proof.Laws
end

