-- ==== Sys2Proof/Laws/Ops.lean ====
section
/-! SUPPORT. What each shared operation can do, said once: register reads after writes, the acceptance checks, a CMD
write, completion, ENGINE's turn, one input, one step. -/

namespace Sys2Proof.Laws

open Sys2Proof.Machine

@[simp] theorem readK_writeK (d i : KIdx) (v : U256) (s : State) :
    readK (writeK d v s) i = if d = i then v else readK s i := by
  simp [readK, Vector.getElem_set, Fin.ext_iff]

@[simp] theorem readQ_writeQ (d i : QIdx) (r : PointReg) (s : State) :
    readQ (writeQ d r s) i = if d = i then r else readQ s i := by
  simp [readQ, Vector.getElem_set, Fin.ext_iff]

@[simp] theorem readK_writeQ (d : QIdx) (r : PointReg) (i : KIdx) (s : State) : readK (writeQ d r s) i = readK s i := rfl

@[simp] theorem readQ_writeK (d : KIdx) (v : U256) (i : QIdx) (s : State) : readQ (writeK d v s) i = readQ s i := rfl

@[simp] theorem readK_clearRegs (i : KIdx) (s : State) : readK (clearRegs s) i = 0 := by
  simp [readK]

@[simp] theorem readQ_clearRegs (i : QIdx) (s : State) : readQ (clearRegs s) i = PointReg.zero := by
  simp [readQ]

theorem finishInt_eq (d : KIdx) (v : U256) (s : State) : finishInt d v s =
    { s with
      k := s.k.set d v, kv := s.kv.set d true, flagNone := false, flagInf := false, flagEq := false
      inflight := none, done := true } := rfl

theorem finishPoint_eq (d : QIdx) (p : Point) (s : State) : finishPoint d p s =
    { s with
      q := s.q.set d (PointReg.ofPoint p), qv := s.qv.set d true
      flagNone := false, flagInf := p.isInfinity, flagEq := false, inflight := none, done := true } := rfl

/-- A command passes the checks of R192 exactly when READY allows it, every source is tagged and on the curve, and a
MODINV has an inverse. -/
theorem cmdChecks_eq_noError_iff (i : Instr) (s : State) : cmdChecks i s = .noError ↔
    (s.ready = true ∨ needsReady i = false) ∧ (∀ r ∈ sources i, tagOf s r = true) ∧
      (∀ r ∈ sources i, sourceOnCurve s r = true) ∧ lacksInverse s i = false := by
  unfold cmdChecks
  by_cases h1 : (!s.ready && needsReady i) = true
  · rw [if_pos h1]
    simp only [Bool.and_eq_true, Bool.not_eq_true'] at h1
    simp [h1]
  · rw [if_neg h1]
    by_cases h2 : ((sources i).any fun r => !tagOf s r) = true
    · rw [if_pos h2]
      simp only [List.any_eq_true, Bool.not_eq_true'] at h2
      obtain ⟨r, hr, ht⟩ := h2
      refine ⟨(nomatch ·), fun h => absurd (h.2.1 r hr) (by simp [ht])⟩
    · rw [if_neg h2]
      by_cases h3 : ((sources i).any fun r => !sourceOnCurve s r) = true
      · rw [if_pos h3]
        simp only [List.any_eq_true, Bool.not_eq_true'] at h3
        obtain ⟨r, hr, ht⟩ := h3
        refine ⟨(nomatch ·), fun h => absurd (h.2.2.1 r hr) (by simp [ht])⟩
      · rw [if_neg h3]
        simp only [List.any_eq_true, Bool.not_eq_true', not_exists, not_and, Bool.not_eq_false] at h2 h3
        have h1' : s.ready = true ∨ needsReady i = false := by
          revert h1
          cases s.ready <;> cases needsReady i <;> simp
        cases h4 : lacksInverse s i <;> simp_all

/-- A CMD write in one line per outcome (R193). -/
theorem cmdWrite_eq (w : Word) (s : State) : cmdWrite w s =
    if s.busy then record .overrun w s
    else if s.err = .noError then (if checks w s = .noError then start w s else reject (checks w s) w s) else s := by
  unfold cmdWrite
  split
  · rfl
  · split
    · cases h : checks w s <;> simp
    · rfl

/-- A CMD write ignores, records, rejects or starts (R193 to R196). -/
theorem cmdWrite_cases (w : Word) (s : State) :
    (s.busy = true ∧ cmdWrite w s = record .overrun w s) ∨
    (s.busy = false ∧ s.err ≠ .noError ∧ cmdWrite w s = s) ∨
    (s.busy = false ∧ s.err = .noError ∧ checks w s ≠ .noError ∧ cmdWrite w s = reject (checks w s) w s) ∨
    (s.busy = false ∧ s.err = .noError ∧ checks w s = .noError ∧ cmdWrite w s = start w s) := by
  rw [cmdWrite_eq]
  cases hb : s.busy
  · by_cases he : s.err = .noError
    · by_cases hc : checks w s = .noError <;> simp [he, hc]
    · simp [he]
  · simp

/-- Every command completes: `exec` always answers a next state. -/
theorem exec_isNext (i : Instr) (s : State) : ∃ t, exec i s = .next t := by
  cases i with
  | decomp d a f =>
    simp only [exec, execDecomp]
    split <;> exact ⟨_, rfl⟩
  | _ => exact ⟨_, rfl⟩

/-- What a command leaves before its flags and its completion: nothing written, READY set (INIT), every register cleared
(CLR), or its one destination written (R24, R27). -/
inductive Written (i : Instr) (s : State) : State → Prop where
  | nothing : Written i s s
  | ready (h : i = .init) : Written i s (setReady s)
  | cleared (h : i = .clr) : Written i s (clearRegs s)
  | intReg (d : KIdx) (v : U256) (h : destK i = some d) : Written i s (writeK d v s)
  | pointReg (d : QIdx) (r : PointReg) (h : destQ i = some d) : Written i s (writeQ d r s)

/-- Completion (R197): what the command wrote, at most one flag set, BUSY = 0 and DONE = 1. -/
theorem exec_cases {i : Instr} {s t : State} (h : exec i s = .next t) :
    ∃ u n f e, Written i s u ∧ t = complete (setFlags n f e u) ∧ (n && f) = false ∧ (n && e) = false ∧
      (f && e) = false ∧ (needsReady i = false → (n || f || e) = false) := by
  cases i with
  | nop => cases h; exact ⟨s, _, _, _, .nothing, rfl, rfl, rfl, rfl, fun _ => rfl⟩
  | init => cases h; exact ⟨_, _, _, _, .ready rfl, rfl, rfl, rfl, rfl, fun _ => rfl⟩
  | clr => cases h; exact ⟨_, _, _, _, .cleared rfl, rfl, rfl, rfl, rfl, fun _ => rfl⟩
  | ldg d => cases h; exact ⟨_, _, _, _, .pointReg d _ rfl, rfl, rfl, rfl, rfl, (nomatch ·)⟩
  | ldn d => cases h; exact ⟨_, _, _, _, .intReg d _ rfl, rfl, rfl, rfl, rfl, (nomatch ·)⟩
  | movk d a => cases h; exact ⟨_, _, _, _, .intReg d _ rfl, rfl, rfl, rfl, rfl, (nomatch ·)⟩
  | movq d a => cases h; exact ⟨_, _, _, _, .pointReg d _ rfl, rfl, rfl, rfl, by simp, (nomatch ·)⟩
  | modinv d a m => cases h; exact ⟨_, _, _, _, .intReg d _ rfl, rfl, rfl, rfl, rfl, (nomatch ·)⟩
  | decomp d a f =>
    simp only [exec, execDecomp] at h
    split at h
    · cases h; exact ⟨_, _, _, _, .pointReg d _ rfl, rfl, rfl, rfl, rfl, (nomatch ·)⟩
    · cases h; exact ⟨s, _, _, _, .nothing, rfl, rfl, rfl, rfl, (nomatch ·)⟩
  | padd d a b => cases h; exact ⟨_, _, _, _, .pointReg d _ rfl, rfl, rfl, rfl, by simp, (nomatch ·)⟩
  | pdbl d a => cases h; exact ⟨_, _, _, _, .pointReg d _ rfl, rfl, rfl, rfl, by simp, (nomatch ·)⟩
  | smul d a b => cases h; exact ⟨_, _, _, _, .pointReg d _ rfl, rfl, rfl, rfl, by simp, (nomatch ·)⟩
  | dsmul d a b c e => cases h; exact ⟨_, _, _, _, .pointReg d _ rfl, rfl, rfl, rfl, by simp, (nomatch ·)⟩
  | peq a b => cases h; exact ⟨s, _, _, _, .nothing, rfl, rfl, rfl, rfl, (nomatch ·)⟩

/-- ENGINE's turn: idle, or the completion of the command in flight (R197, R210). -/
theorem engineTurn_cases {s t : State} (h : engineTurn s = .next t) :
    (s.inflight = none ∧ t = s) ∨ ∃ w i, s.inflight = some w ∧ decode w = .cmd i ∧ exec i s = .next t := by
  unfold engineTurn at h
  split at h
  · next hn => cases h; exact .inl ⟨hn, rfl⟩
  · next w hw =>
    split at h
    · next i hi => exact .inr ⟨w, i, hw, hi, h⟩
    · cases h
    · cases h

/-- An accepted access is 32 bits wide and its offset is 4-aligned and below 0x800 (R61). -/
theorem acceptedOffset_eq_some {s : State} {bytes addr off : Nat} (h : acceptedOffset s bytes addr = some off) :
    bytes = 4 ∧ addr = s.base + off ∧ off % 4 = 0 ∧ off < 0x800 := by
  unfold acceptedOffset at h
  split at h
  · next hc => cases h; omega
  · cases h

/-- The offsets of the window are accepted at BASE (R50, R61). -/
theorem acceptedOffset_base (s : State) (off : Nat) (h4 : off % 4 = 0) (hlt : off < 0x800) :
    acceptedOffset s 4 (s.base + off) = some off := by
  unfold acceptedOffset
  rw [if_pos (by omega), Nat.add_sub_cancel_left]

/-- A host access is a bus error, nothing but a zero returned (in reset), a read, or a write (R61, R230). -/
theorem hostAccess_cases {a : Access} {s t : State} (h : hostAccess a s = .next t) :
    (∃ bytes addr off, a = .read bytes addr ∧ acceptedOffset s bytes addr = some off ∧
      t = if s.resetLine then respond 0 s else windowRead off s) ∨
    (∃ bytes addr off v, a = .write bytes addr v ∧ acceptedOffset s bytes addr = some off ∧
      t = if s.resetLine then s else windowWrite off v s) := by
  cases a with
  | read bytes addr =>
    simp only [hostAccess] at h
    split at h
    · cases h
    · next off ho => cases h; exact .inl ⟨_, _, _, rfl, ho, rfl⟩
  | write bytes addr v =>
    simp only [hostAccess] at h
    split at h
    · cases h
    · next off ho => cases h; exact .inr ⟨_, _, _, _, rfl, ho, rfl⟩

/-- A read returns one word, and draws one value at most (R63, R65). -/
theorem windowRead_cases (off : Nat) (s : State) :
    windowRead off s = respond (readReg s (winReg off)) s ∨ windowRead off s = respondFree s := by
  unfold windowRead
  split
  · exact .inr rfl
  · exact .inl rfl

/-- One step: the next input, or ENGINE's turn when none is left (R7, R201). -/
theorem step_cases {s t : State} (h : step s = .next t) :
    (s.events = [] ∧ engineTurn s = .next t) ∨
    ∃ e es, s.events = e :: es ∧ deliver e { s with events := es } = .next t := by
  unfold step at h
  split at h
  · next hn => exact .inl ⟨hn, h⟩
  · next e es he => exact .inr ⟨e, es, he, h⟩

end Sys2Proof.Laws
end

