-- ==== Sys2Proof/Laws/Window.lean ====
section
/-! SUPPORT. The words of a 256-bit value, what each offset of the window names, and the triples of the Q registers as
points. -/

namespace Sys2Proof.Laws

open Sys2Proof.Machine

theorem getLsbD_wordOf (v : U256) (j : Fin 8) (b : Nat) :
    (wordOf v j).getLsbD b = (decide (b < 32) && v.getLsbD (224 - 32 * j.val + b)) := by
  simp [wordOf]

theorem getLsbD_setWord (v : U256) (j : Fin 8) (w : Word) (b : Nat) (hb : b < 256) :
    (setWord v j w).getLsbD b =
      if 224 - 32 * j.val ≤ b ∧ b < 256 - 32 * j.val then w.getLsbD (b - (224 - 32 * j.val)) else v.getLsbD b := by
  have hj := j.isLt
  have hmask : ∀ c : Nat, (4294967295#256).getLsbD c = decide (c < 32) := by
    intro c
    have : (4294967295#256) = (BitVec.allOnes 32).setWidth 256 := by decide
    rw [this, BitVec.getLsbD_setWidth, BitVec.getLsbD_allOnes]
    by_cases hc : c < 32
    · simp [hc]; omega
    · simp [hc]
  simp only [setWord, BitVec.getLsbD_or, BitVec.getLsbD_and, BitVec.getLsbD_not, BitVec.getLsbD_shiftLeft,
    BitVec.getLsbD_setWidth, BitVec.ofNat_eq_ofNat, hmask, hb, decide_true, Bool.true_and]
  by_cases h1 : b < 224 - 32 * j.val
  · rw [if_neg (by omega)]
    simp [h1]
  · by_cases h2 : b - (224 - 32 * j.val) < 32
    · rw [if_pos (by omega)]
      simp [h1, h2]
      intro _
      omega
    · rw [if_neg (by omega)]
      have hw : w.getLsbD (b - (224 - 32 * j.val)) = false := BitVec.getLsbD_of_ge w _ (by omega)
      simp [h1, h2, hw]

/-- Word j of a value whose word j was written is the word written (R56). -/
@[simp] theorem wordOf_setWord_same (v : U256) (j : Fin 8) (w : Word) : wordOf (setWord v j w) j = w := by
  refine BitVec.eq_of_getLsbD_eq fun b hb => ?_
  have hj := j.isLt
  rw [getLsbD_wordOf, getLsbD_setWord _ _ _ _ (by omega), if_pos (by omega)]
  simp [hb]

/-- The other words are unchanged (R56). -/
theorem wordOf_setWord_ne (v : U256) {j j' : Fin 8} (w : Word) (h : j' ≠ j) : wordOf (setWord v j w) j' = wordOf v j' := by
  refine BitVec.eq_of_getLsbD_eq fun b hb => ?_
  have hj := j.isLt
  have hj' := j'.isLt
  have hne : j'.val ≠ j.val := fun h0 => h (Fin.ext h0)
  rw [getLsbD_wordOf, getLsbD_wordOf, getLsbD_setWord _ _ _ _ (by omega), if_neg (by omega)]

/-- A value is its eight words (R51). -/
theorem eq_of_wordOf_eq {v v' : U256} (h : ∀ j, wordOf v j = wordOf v' j) : v = v' := by
  refine BitVec.eq_of_getLsbD_eq fun b hb => ?_
  have := congrArg (BitVec.getLsbD · (b % 32)) (h ⟨7 - b / 32, by omega⟩)
  simp only [getLsbD_wordOf, Nat.mod_lt b (by norm_num : 0 < 32), decide_true, Bool.true_and] at this
  rwa [show 224 - 32 * (7 - b / 32) + b % 32 = b by omega] at this

theorem winReg_kWord : ∀ i j : Fin 8, winReg (0x100 + 0x20 * i.val + 4 * j.val) = .kWord i j := by decide

theorem winReg_qx : ∀ i j : Fin 8, winReg (0x200 + 0x80 * i.val + 4 * j.val) = .qx i j := by decide

theorem winReg_qy : ∀ i j : Fin 8, winReg (0x220 + 0x80 * i.val + 4 * j.val) = .qy i j := by decide

theorem winReg_qinf : ∀ i : Fin 8, winReg (0x240 + 0x80 * i.val) = .qinf i := by decide

theorem winReg_qpad : ∀ (i : Fin 8) (m : Fin 15), winReg (0x244 + 0x80 * i.val + 4 * m.val) = .qpad i := by decide

theorem winReg_param (j : Fin 8) :
    winReg (0x600 + 4 * j.val) = .param .p j ∧ winReg (0x620 + 4 * j.val) = .param .n j ∧
      winReg (0x640 + 4 * j.val) = .param .gx j ∧ winReg (0x660 + 4 * j.val) = .param .gy j ∧
      winReg (0x680 + 4 * j.val) = .param .a j ∧ winReg (0x6A0 + 4 * j.val) = .param .b j ∧
      winReg (0x6C0 + 4 * j.val) = .param .h j := by
  revert j
  decide

theorem writeReg_of_qSlotReg (v : Word) (s : State) (i : QIdx) (r : Nat) :
    writeReg v s (qSlotReg i r) = s ∨ ∃ u, writeReg v s (qSlotReg i r) = writeQ i u s := by
  unfold qSlotReg
  split
  · exact .inr ⟨_, rfl⟩
  · split
    · exact .inr ⟨_, rfl⟩
    · split
      · exact .inr ⟨_, rfl⟩
      · exact .inl rfl

theorem paramReg_cases (off : Nat) : (∃ c j, paramReg off = .param c j) ∨ paramReg off = .reserved := by
  unfold paramReg
  repeat' (first | exact .inl ⟨_, _, rfl⟩ | exact .inr rfl | split)

/-- Outside the K and Q windows no write touches a register file, and each of CTRL, STATUS and CMD is one word (R52). -/
theorem writeReg_outside_kq (v : Word) (s : State) {off : Nat} (h : inKQ off = false) (h4 : off % 4 = 0) :
    writeReg v s (winReg off) = s ∨ (off = 0x004 ∧ writeReg v s (winReg off) = writeCtrl v s) ∨
      (off = 0x008 ∧ writeReg v s (winReg off) = writeStatus v s) ∨
      (off = 0x00C ∧ writeReg v s (winReg off) = cmdWrite v s) := by
  have hout : off < 0x100 ∨ 0x600 ≤ off := by
    by_contra hc
    rw [not_or, Nat.not_lt, Nat.not_le] at hc
    rw [inKQ, decide_eq_true hc.1, decide_eq_true hc.2] at h
    exact absurd h (by decide)
  rcases hout with hlo | hhi
  · unfold winReg
    repeat' (first
      | exact .inl rfl
      | exact .inr (.inl ⟨by omega, rfl⟩)
      | exact .inr (.inr (.inl ⟨by omega, rfl⟩))
      | exact .inr (.inr (.inr ⟨by omega, rfl⟩))
      | omega
      | split)
  · have : winReg off = paramReg off := by
      unfold winReg
      repeat' (first | rfl | omega | split)
    rw [this]
    rcases paramReg_cases off with ⟨c, j, hc⟩ | hc <;> rw [hc] <;> exact .inl rfl

/-- Inside the K and Q windows a write changes one register and its tag, or nothing (R56, R57). -/
theorem writeReg_inside_kq (v : Word) (s : State) {off : Nat} (h : inKQ off = true) :
    writeReg v s (winReg off) = s ∨ (∃ i u, writeReg v s (winReg off) = writeK i u s) ∨
      ∃ i u, writeReg v s (winReg off) = writeQ i u s := by
  simp only [inKQ, Bool.and_eq_true, decide_eq_true_eq] at h
  by_cases hk : off < 0x200
  · have : winReg off = .kWord (Fin.ofNat 8 ((off - 0x100) / 0x20)) (Fin.ofNat 8 (off % 0x20 / 4)) := by
      unfold winReg
      repeat' (first | rfl | omega | split)
    rw [this]
    exact .inr (.inl ⟨_, _, rfl⟩)
  · have : winReg off = qSlotReg (Fin.ofNat 8 ((off - 0x200) / 0x80)) (off % 0x80) := by
      unfold winReg
      repeat' (first | rfl | omega | split)
    rw [this]
    rcases writeReg_of_qSlotReg v s (Fin.ofNat 8 ((off - 0x200) / 0x80)) (off % 0x80) with hr | hr
    · exact .inl hr
    · exact .inr (.inr ⟨_, hr⟩)

/-- A write of the window while BUSY = 1 never touches a register file (R65). -/
theorem windowWrite_cases (off : Nat) (v : Word) (s : State) :
    (s.busy = true ∧ inKQ off = true ∧ windowWrite off v s = record .overrun (BitVec.ofNat 32 off) s) ∨
    ((s.busy = false ∨ inKQ off = false) ∧ windowWrite off v s = writeReg v s (winReg off)) := by
  unfold windowWrite
  cases s.busy <;> cases inKQ off <;> simp

/-- R28 for a triple is R28 for its point. -/
theorem pointReg_onCurve_eq (r : PointReg) : r.onCurve = r.pt.onCurve := by
  cases h : r.inf <;> simp [PointReg.onCurve, PointReg.pt, Point.onCurve, h]

theorem curveP_lt : curveP < 2 ^ 256 := by decide

/-- R26: the canonical triple of a point on the curve holds that point. -/
theorem pt_ofPoint {p : Point} (h : p.onCurve = true) : (PointReg.ofPoint p).pt = p := by
  cases p with
  | infinity => rfl
  | affine x y =>
    obtain ⟨hx, hy, -⟩ := (affineOnCurve_iff x y).1 h
    have := curveP_lt
    simp only [PointReg.ofPoint, PointReg.pt, BitVec.toNat_ofNat, Bool.false_eq_true, if_false,
      Nat.mod_eq_of_lt (lt_trans hx this), Nat.mod_eq_of_lt (lt_trans hy this)]

/-- The canonical triple of a point on the curve is on the curve (R29). -/
theorem ofPoint_onCurve {p : Point} (h : p.onCurve = true) : (PointReg.ofPoint p).onCurve = true := by
  rw [pointReg_onCurve_eq, pt_ofPoint h]
  exact h

end Sys2Proof.Laws
end

