-- ==== Sys2Proof/Laws/Step.lean ====
section
/-! SUPPORT. One step on each kind of input, and what the acceptance checks read (`60_exceptions.md` R192, R197, R201). -/

namespace Sys2Proof.Laws

open Sys2Proof.Machine

/-- The checks of R192 read READY, the registers and the tags, and nothing else. -/
theorem cmdChecks_congr (i : Instr) {s s' : State} (hr : s'.ready = s.ready) (hk : s'.k = s.k) (hkv : s'.kv = s.kv)
    (hq : s'.q = s.q) (hqv : s'.qv = s.qv) : cmdChecks i s' = cmdChecks i s := by
  have h1 : tagOf s' = tagOf s := by
    funext r
    cases r <;> simp only [tagOf, hkv, hqv]
  have h2 : sourceOnCurve s' = sourceOnCurve s := by
    funext r
    cases r <;> simp only [sourceOnCurve, readQ, hq]
  have h3 : lacksInverse s' i = lacksInverse s i := by
    cases i <;> simp only [lacksInverse, readK, hk]
  simp only [cmdChecks, hr, h1, h2, h3]

theorem checks_congr (w : Word) {s s' : State} (hr : s'.ready = s.ready) (hk : s'.k = s.k) (hkv : s'.kv = s.kv)
    (hq : s'.q = s.q) (hqv : s'.qv = s.qv) : checks w s' = checks w s := by
  simp only [checks, cmdChecks_congr _ hr hk hkv hq hqv]

/-- The checks of a command's own word are the command's (R86, R192). -/
theorem checks_of_decode {w : Word} {i : Instr} (h : decode w = .cmd i) (s : State) : checks w s = cmdChecks i s := by
  simp only [checks, h]

/-- A word passes the checks only when it is a command that does (R192). -/
theorem checks_eq_noError {w : Word} {s : State} (h : checks w s = .noError) :
    ∃ i, decode w = .cmd i ∧ cmdChecks i s = .noError := by
  unfold checks at h
  split at h
  · cases h
  · cases h
  · next i hi => exact ⟨i, hi, h⟩

theorem step_cons {s : State} {e : Event} {es : List Event} (h : s.events = e :: es) :
    step s = deliver e { s with events := es } := by
  unfold step
  rw [h]

theorem step_nil {s : State} (h : s.events = []) : step s = engineTurn s := by
  unfold step
  rw [h]

/-- ENGINE's turn with a command in flight is its completion (R197). -/
theorem engineTurn_of_inflight {s : State} {w : Word} {i : Instr} (hw : s.inflight = some w) (hd : decode w = .cmd i) :
    engineTurn s = exec i s := by
  unfold engineTurn
  simp only [hw, hd]

theorem core_run_succ {s t : State} (n : Nat) (h : step s = .next t) : core.run (n + 1) s = core.run n t := by
  have hc : core.step s = .next t := h
  exact (Host.Core.run.eq_2 core s n).trans (by rw [hc])

/-- ENGINE's turn as the next step (R7). -/
theorem step_engine {s : State} {es : List Event} (h : EngineNext s es) : step s = engineTurn { s with events := es } := by
  rcases h with h | ⟨h, rfl⟩
  · simp only [step, h, deliver]
  · have : s = { s with events := [] } := by
      cases s
      simp_all
    rw [← this]
    simp only [step, h]

/-- A write of the window out of reset (R52, R61). -/
theorem step_write {s : State} {off : Nat} {v : Word} {es : List Event} (h : ReceivesWrite s off v es)
    (h4 : off % 4 = 0) (hlt : off < 0x800) : step s = .next (windowWrite off v { s with events := es }) := by
  obtain ⟨he, hr⟩ := h
  have ha := acceptedOffset_base { s with events := es } off h4 hlt
  simp only [step, he, hostW, deliver, hostAccess]
  rw [show s.base = State.base { s with events := es } from rfl, ha]
  simp [hr]

/-- A read of the window out of reset (R52, R61). -/
theorem step_read {s : State} {off : Nat} {es : List Event} (h : ReceivesRead s off es)
    (h4 : off % 4 = 0) (hlt : off < 0x800) : step s = .next (windowRead off { s with events := es }) := by
  obtain ⟨he, hr⟩ := h
  have ha := acceptedOffset_base { s with events := es } off h4 hlt
  simp only [step, he, hostR, deliver, hostAccess]
  rw [show s.base = State.base { s with events := es } from rfl, ha]
  simp [hr]

/-- A write to CMD out of reset (R193). -/
theorem step_cmdWrite {s : State} {w : Word} {es : List Event} (h : ReceivesWrite s 0x00C w es) :
    step s = .next (cmdWrite w { s with events := es }) := by
  rw [step_write h (by decide) (by decide)]
  simp [windowWrite, inKQ, winReg, writeReg]

/-- Everything one input can do to the block, said once: `Effect e s t` when input e takes s (its input consumed) to t.
ENGINE's turn idles or completes (R197, R210), the reset input acts (R230), a read returns data (R63, R65), and a write is
ignored, sets CTRL, STATUS, a K or a Q register, or is a command's OVERRUN, rejection or start (R193 to R196). -/
inductive Effect : Event → State → State → Prop where
  | idle {s} (hi : s.inflight = none) : Effect .engine s s
  | completed {s t} (w : Word) (i : Instr) (hw : s.inflight = some w) (hd : decode w = .cmd i) (h : exec i s = .next t) :
      Effect .engine s t
  | reset {s} : Effect .assertReset s (assertReset s)
  | released {s} : Effect .releaseReset s (releaseReset s)
  | read {s bytes addr} (v : Word) (h0 : s.resetLine = true → v = 0) : Effect (.host (.read bytes addr)) s (respond v s)
  | readFree {s bytes addr} (w : Word) (hw : s.inflight = some w) (hr : s.resetLine = false) :
      Effect (.host (.read bytes addr)) s (respondFree s)
  | ignored {s bytes addr v} : Effect (.host (.write bytes addr v)) s s
  | ctrl {s v} (hr : s.resetLine = false) : Effect (hostW s.base 0x004 v) s (writeCtrl v s)
  | status {s v} (hr : s.resetLine = false) : Effect (hostW s.base 0x008 v) s (writeStatus v s)
  | overrun {s bytes addr v} (u w : Word) (hw : s.inflight = some w) (hr : s.resetLine = false) :
      Effect (.host (.write bytes addr v)) s (record .overrun u s)
  | rejected {s v} (hr : s.resetLine = false) (hi : s.inflight = none) (he : s.err = .noError) (hc : checks v s ≠ .noError) :
      Effect (hostW s.base 0x00C v) s (reject (checks v s) v s)
  | started {s v} (hr : s.resetLine = false) (hi : s.inflight = none) (he : s.err = .noError) (hc : checks v s = .noError) :
      Effect (hostW s.base 0x00C v) s (start v s)
  | intWord {s bytes addr v} (i : KIdx) (u : U256) (hr : s.resetLine = false) (hi : s.inflight = none) :
      Effect (.host (.write bytes addr v)) s (writeK i u s)
  | pointWord {s bytes addr v} (i : QIdx) (u : PointReg) (hr : s.resetLine = false) (hi : s.inflight = none) :
      Effect (.host (.write bytes addr v)) s (writeQ i u s)

theorem effect_of_hostAccess {a : Access} {s t : State} (h : hostAccess a s = .next t) : Effect (.host a) s t := by
  rcases hostAccess_cases h with ⟨bytes, addr, off, rfl, -, rfl⟩ | ⟨bytes, addr, off, v, rfl, ha, rfl⟩
  · split
    · exact .read 0 fun _ => rfl
    · next hr =>
      have hr' : s.resetLine = false := by simpa using hr
      unfold windowRead
      split
      · next hb =>
        simp only [Bool.and_eq_true, State.busy, Option.isSome_iff_exists] at hb
        obtain ⟨⟨w, hw⟩, -⟩ := hb
        exact .readFree w hw hr'
      · exact .read _ fun hc => absurd hc (by simp [hr'])
  · split
    · exact .ignored
    · next hr =>
      have hr' : s.resetLine = false := by simpa using hr
      obtain ⟨rfl, rfl, h4, hlt⟩ := acceptedOffset_eq_some ha
      rcases windowWrite_cases off v s with ⟨hb, -, hw⟩ | ⟨hkq, hw⟩
      · obtain ⟨w, hw'⟩ := Option.isSome_iff_exists.1 hb
        rw [hw]
        exact .overrun _ w hw' hr'
      · rw [hw]
        cases hk : inKQ off with
        | false =>
          rcases writeReg_outside_kq v s hk h4 with hx | ⟨rfl, hx⟩ | ⟨rfl, hx⟩ | ⟨rfl, hx⟩ <;> rw [hx]
          · exact .ignored
          · exact .ctrl hr'
          · exact .status hr'
          · rcases cmdWrite_cases v s with ⟨hb, hx⟩ | ⟨hb, he, hx⟩ | ⟨hb, he, hc, hx⟩ | ⟨hb, he, hc, hx⟩ <;> rw [hx]
            · obtain ⟨w, hw'⟩ := Option.isSome_iff_exists.1 hb
              exact .overrun _ w hw' hr'
            · exact .ignored
            · exact .rejected hr' (by simpa [State.busy] using hb) he hc
            · exact .started hr' (by simpa [State.busy] using hb) he hc
        | true =>
          have hi : s.inflight = none := by simpa [hk, State.busy] using hkq
          rcases writeReg_inside_kq v s hk with hx | ⟨i, u, hx⟩ | ⟨i, u, hx⟩ <;> rw [hx]
          · exact .ignored
          · exact .intWord i u hr' hi
          · exact .pointWord i u hr' hi

theorem effect_of_deliver {e : Event} {s t : State} (h : deliver e s = .next t) : Effect e s t := by
  cases e with
  | host a => exact effect_of_hostAccess h
  | engine =>
    rcases engineTurn_cases h with ⟨hi, rfl⟩ | ⟨w, i, hw, hd, hx⟩
    · exact .idle hi
    · exact .completed w i hw hd hx
  | assertReset => cases h; exact .reset
  | releaseReset => cases h; exact .released

/-- The input a step consumes: the next one to arrive, or ENGINE's turn when none is left (R7). -/
def Takes (s : State) (e : Event) (es : List Event) : Prop :=
  s.events = e :: es ∨ (s.events = [] ∧ es = [] ∧ e = .engine)

theorem Takes.engineNext {s : State} {es : List Event} (h : Takes s .engine es) : EngineNext s es := by
  rcases h with h | ⟨h, h', -⟩
  · exact .inl h
  · exact .inr ⟨h, h'⟩

theorem Takes.events_eq {s : State} {e : Event} {es : List Event} (h : Takes s e es) (hne : e ≠ .engine) :
    s.events = e :: es := h.resolve_right fun hc => hne hc.2.2

/-- One step is one effect of the input it consumes. -/
theorem step_effect {s t : State} (h : step s = .next t) :
    ∃ e es, Takes s e es ∧ Effect e { s with events := es } t := by
  rcases step_cases h with ⟨he, hx⟩ | ⟨e, es, he, hx⟩
  · refine ⟨.engine, [], .inr ⟨he, rfl, rfl⟩, ?_⟩
    have : s = { s with events := [] } := by
      cases s
      simp_all
    rw [← this]
    exact effect_of_deliver (e := .engine) hx
  · exact ⟨e, es, .inl he, effect_of_deliver hx⟩

/-- A host access while BUSY = 1 leaves everything a completion reads or writes as it was (R65, R72). -/
theorem Effect.busy_frame {a : Access} {s t : State} {w : Word} (h : Effect (.host a) s t) (hb : s.inflight = some w) :
    t.k = s.k ∧ t.kv = s.kv ∧ t.q = s.q ∧ t.qv = s.qv ∧ t.flagNone = s.flagNone ∧ t.flagInf = s.flagInf ∧
      t.flagEq = s.flagEq ∧ t.ready = s.ready ∧ t.lastCmd = s.lastCmd ∧ t.inflight = s.inflight ∧
      t.window = s.window ∧ t.events = s.events := by
  cases h <;> simp_all

end Sys2Proof.Laws
end

