-- ==== Sys2Proof/Tests/Slice0.lean ====
section
/-! SUPPORT. Tests: ill-formed terms, words written out from the encoding, single steps against the vectors of
`95_test_vectors.md`, and for each statement with hypotheses a state and operands that meet them. -/

namespace Sys2Proof.Tests

open Sys2Proof.Machine

/-! ### Well-formedness -/

/-- DSMUL q3, k2, q0, k3, q1 field by field (R85). -/
def goodFields : Fields := ⟨0x24, 3, 2, 0, 3, 1, 0, 0⟩

theorem test_wf_accepts : goodFields.wellFormed = true := by decide

/-- R87: an opcode outside the map. -/
theorem test_wf_opc : ({ goodFields with opc := 0x26 } : Fields).wellFormed = false := by decide

/-- R88: RSV. -/
theorem test_wf_rsv : ({ goodFields with rsv := 0x80 } : Fields).wellFormed = false := by decide

/-- R88: each field a format does not use: D of PEQ, A of LDG, B of PDBL, C and E of PADD, F of PADD. -/
theorem test_wf_unused_d : (⟨0x25, 1, 1, 2, 0, 0, 0, 0⟩ : Fields).wellFormed = false := by decide
theorem test_wf_unused_a : (⟨0x08, 1, 1, 0, 0, 0, 0, 0⟩ : Fields).wellFormed = false := by decide
theorem test_wf_unused_b : (⟨0x22, 1, 1, 1, 0, 0, 0, 0⟩ : Fields).wellFormed = false := by decide
theorem test_wf_unused_c : (⟨0x21, 1, 1, 1, 1, 0, 0, 0⟩ : Fields).wellFormed = false := by decide
theorem test_wf_unused_e : (⟨0x21, 1, 1, 1, 0, 1, 0, 0⟩ : Fields).wellFormed = false := by decide
theorem test_wf_unused_f : (⟨0x21, 1, 1, 1, 0, 0, 1, 0⟩ : Fields).wellFormed = false := by decide

/-- R90's own example of an assembly error: `PADD q1, k0, q2`. -/
theorem test_asm_wrong_file : (⟨.padd, [.q 1, .k 0, .q 2]⟩ : AsmLine).wellFormed = false ∧
    assemble ⟨.padd, [.q 1, .k 0, .q 2]⟩ = none := by decide

theorem test_asm_wrong_count : (⟨.pdbl, [.q 1]⟩ : AsmLine).wellFormed = false := by decide

/-- R90: mnemonics are case-insensitive. -/
theorem test_asm_case : Mnemonic.ofName ['d', 'S', 'm', 'u', 'L'] = some .dsmul ∧ Mnemonic.ofName ['d', 's'] = none := by
  decide

/-! ### Decoding: words laid out bit by bit as R84 draws them -/

/-- The layout of R81: OPC D A B C E F RSV. -/
def bits (opc : BitVec 8) (d a b c e : BitVec 3) (f : BitVec 1) (rsv : BitVec 8) : Word :=
  opc ++ d ++ a ++ b ++ c ++ e ++ f ++ rsv

theorem test_decode_nop : decode (bits 0b00000000 0 0 0 0 0 0 0) = .cmd .nop := by decide
theorem test_decode_init : decode (bits 0b00000001 0 0 0 0 0 0 0) = .cmd .init := by decide
theorem test_decode_clr : decode (bits 0b00000010 0 0 0 0 0 0 0) = .cmd .clr := by decide
theorem test_decode_ldg : decode (bits 0b00001000 0b110 0 0 0 0 0 0) = .cmd (.ldg 6) := by decide
theorem test_decode_ldn : decode (bits 0b00001001 0b111 0 0 0 0 0 0) = .cmd (.ldn 7) := by decide
theorem test_decode_movk : decode (bits 0b00001010 0b100 0b001 0 0 0 0 0) = .cmd (.movk 4 1) := by decide
theorem test_decode_movq : decode (bits 0b00001011 0b101 0b011 0 0 0 0 0) = .cmd (.movq 5 3) := by decide
theorem test_decode_modinv : decode (bits 0b00010000 0b001 0b110 0 0 0 0b1 0) = .cmd (.modinv 1 6 .p) := by decide
theorem test_decode_decomp : decode (bits 0b00100000 0b011 0b100 0 0 0 0b1 0) = .cmd (.decomp 3 4 .odd) := by decide
theorem test_decode_padd : decode (bits 0b00100001 0b010 0b101 0b110 0 0 0 0) = .cmd (.padd 2 5 6) := by decide
theorem test_decode_pdbl : decode (bits 0b00100010 0b001 0b100 0 0 0 0 0) = .cmd (.pdbl 1 4) := by decide
theorem test_decode_smul : decode (bits 0b00100011 0b010 0b111 0b001 0 0 0 0) = .cmd (.smul 2 7 1) := by decide
theorem test_decode_dsmul : decode (bits 0b00100100 0b001 0b010 0b011 0b100 0b101 0 0) = .cmd (.dsmul 1 2 3 4 5) := by decide
theorem test_decode_peq : decode (bits 0b00100101 0 0b001 0b010 0 0 0 0) = .cmd (.peq 1 2) := by decide

/-- Words of the spec's programs P1 to P3 and its worked example. -/
theorem test_encode : encode (.dsmul 3 2 0 3 1) = 0x24683200 ∧ encode (.padd 3 1 0) = 0x21640000 ∧
    encode (.smul 2 7 1) = 0x235C8000 ∧ encode (.decomp 4 3 .even) = 0x208C0000 := by decide

/-- A word placed for the next step is the instruction the next step runs. -/
theorem test_placed_word_runs : decodeTableWord 32 0x09E00000 = some (.ldn 7) := by decide

/-! ### One step of each command, against the vectors -/

/-- The state after an outcome. -/
def after (o : Host.Outcome State Fault Refusal) : Option State :=
  match o with
  | .next t => some t
  | .fault _ => none
  | .refused _ => none

/-- READY = 1, with the given registers written. -/
def withRegs (ks : List (KIdx × U256)) (qs : List (QIdx × PointReg)) : State :=
  qs.foldl (fun s r => writeQ r.1 r.2 s) (ks.foldl (fun s r => writeK r.1 r.2 s) (setReady State.reset))

def G : PointReg := ⟨false, 0x79BE667EF9DCBBAC55A06295CE870B07029BFCDB2DCE28D959F2815B16F81798,
  0x483ADA7726A3C4655DA4FBFC0E1108A8FD17B448A68554199C47D08FFB10D4B8⟩
def negG : PointReg := ⟨false, 0x79BE667EF9DCBBAC55A06295CE870B07029BFCDB2DCE28D959F2815B16F81798,
  0xB7C52588D95C3B9AA25B0403F1EEF75702E84BB7597AABE663B82F6F04EF2777⟩
def twoG : PointReg := ⟨false, 0xC6047F9441ED7D6D3045406E95C07CD85C778E4B8CEF3CA7ABAC09B95C709EE5,
  0x1AE168FEA63DC339A3C58419466CEAEEF7F632653266D0E1236431A950CFE52A⟩
def fiveG : PointReg := ⟨false, 0x2F8BDE4D1A07209355B4A7250A5C5128E88B84BDDC619AB7CBA8D569B240EFE4,
  0xD8AC222636E5E3D6D4DBA9DDA6C9C426F788271BAB0D6840DCA87D3AA6AC62D6⟩
def sevenG : PointReg := ⟨false, 0x5CBDF0646E5DB4EAA398F365F2EA7A0E3D419B7E0330E39CE92BDDEDCAC4F9BC,
  0x6AEBCA40BA255960A3178D6D861A54DBA813D0B813FDE7B5A5082628087264DA⟩
def infReg : PointReg := ⟨true, 0, 0⟩

/-- V100. -/
theorem test_nop : (after (exec .nop (start 0 State.reset))).map statusWord = some 0x002 := by decide

/-- V1. -/
theorem test_init : (after (exec .init (start 0x01000000 State.reset))).map statusWord = some 0x022 := by decide

/-- V102: VALID = 0, K0 reads 0, READY stays 1. -/
theorem test_clr : (after (exec .clr (withRegs [(0, 5)] [(3, G)]))).map (fun t => (validWord t, readK t 0, statusWord t)) =
    some (0, 0, 0x022) := by decide

/-- V4: words of Q0 read at 0x200, 0x21C, 0x220, 0x23C and 0x240. -/
theorem test_ldg : (after (exec (.ldg 0) (withRegs [] []))).map (fun t =>
    [0x200, 0x21C, 0x220, 0x23C, 0x240].map fun off => readReg t (winReg off)) =
    some [0x79BE667E, 0x16F81798, 0x483ADA77, 0xFB10D4B8, 0x00000000] := by decide

/-- V5: words of K7 read at 0x1E0, 0x1EC and 0x1FC. -/
theorem test_ldn : (after (exec (.ldn 7) (withRegs [] []))).map (fun t =>
    [0x1E0, 0x1EC, 0x1FC].map fun off => readReg t (winReg off)) = some [0xFFFFFFFF, 0xFFFFFFFE, 0xD0364141] := by decide

/-- V103. -/
theorem test_movk : (after (exec (.movk 4 1) (withRegs [(1, 5)] []))).map (fun t => (readK t 4, t.kv[4])) =
    some (5, true) := by decide

/-- V105: a raw copy. -/
theorem test_movq : (after (exec (.movq 5 3) (withRegs [] [(3, ⟨true, 5, 9⟩)]))).map (fun t => (readQ t 5, statusWord t)) =
    some (⟨true, 5, 9⟩, 0x02A) := by decide

/-- V21, with V10's value: 2⁻¹ mod n, destination and source the same register. -/
theorem test_modinv_n : (after (exec (.modinv 0 0 .n) (withRegs [(0, 2)] []))).map (readK · 0) =
    some 0x7FFFFFFFFFFFFFFFFFFFFFFFFFFFFFFF5D576E7357A4501DDFE92F46681B20A1 := by decide +kernel

/-- V11: 2⁻¹ mod p. -/
theorem test_modinv_p : (after (exec (.modinv 1 0 .p) (withRegs [(0, 2)] []))).map (readK · 1) =
    some 0x7FFFFFFFFFFFFFFFFFFFFFFFFFFFFFFFFFFFFFFFFFFFFFFFFFFFFFFF7FFFFE18 := by decide +kernel

/-- V33: x = 1, odd. -/
theorem test_decomp_odd : (after (exec (.decomp 1 0 .odd) (withRegs [(0, 1)] []))).map (readQ · 1) =
    some ⟨false, 1, 0xBDE70DF51939B94C9C24979FA7DD04EBD9B3572DA7802290438AF2A681895441⟩ := by decide +kernel

/-- V41: x = 5 has no point. -/
theorem test_decomp_none : (after (exec (.decomp 4 3 .even) (withRegs [(3, 5)] [(4, G)]))).map
    (fun t => (readQ t 4, statusWord t)) = some (G, 0x026) := by decide +kernel

/-- V56: `PADD q1, q1, q1` with Q1 = G. -/
theorem test_padd_double : (after (exec (.padd 1 1 1) (withRegs [] [(1, G)]))).map (readQ · 1) = some twoG := by
  decide +kernel

/-- V52: G + (−G). -/
theorem test_padd_neg : (after (exec (.padd 2 0 1) (withRegs [] [(0, G), (1, negG)]))).map
    (fun t => (readQ t 2, statusWord t)) = some (infReg, 0x02A) := by decide +kernel

/-- V59. -/
theorem test_pdbl : (after (exec (.pdbl 1 0) (withRegs [] [(0, G)]))).map (readQ · 1) = some twoG := by decide +kernel

/-- V61. -/
theorem test_pdbl_inf : (after (exec (.pdbl 1 0) (withRegs [] [(0, ⟨true, 5, 9⟩)]))).map
    (fun t => (readQ t 1, statusWord t)) = some (infReg, 0x02A) := by decide +kernel

/-- V74: 7·G. -/
theorem test_smul : (after (exec (.smul 0 7 0) (withRegs [(7, 7)] [(0, G)]))).map (readQ · 0) = some sevenG := by
  decide +kernel

/-- V76: (N − 1)·G = −G. -/
theorem test_smul_negate :
    (after (exec (.smul 2 7 0) (withRegs [(7, 0xFFFFFFFFFFFFFFFFFFFFFFFFFFFFFFFEBAAEDCE6AF48A03BBFD25E8CD0364140)] [(0, G)]))).map
      (readQ · 2) = some negG := by decide +kernel

/-- V82: 2·G + 3·G. -/
theorem test_dsmul : (after (exec (.dsmul 2 0 0 1 1) (withRegs [(0, 2), (1, 3)] [(0, G), (1, G)]))).map (readQ · 2) =
    some fiveG := by decide +kernel

/-- V94: two registers that hold O are equal whatever their words. -/
theorem test_peq_inf : (after (exec (.peq 1 2) (withRegs [] [(1, ⟨true, 5, 9⟩), (2, infReg)]))).map statusWord =
    some 0x032 := by decide

/-- V91: G against −G. -/
theorem test_peq_neg : (after (exec (.peq 1 2) (withRegs [] [(1, G), (2, negG)]))).map statusWord = some 0x022 := by decide

/-! ### Acceptance and the window -/

/-- A host program of one access, from s. -/
def one (e : Event) (s : State) : State := { s with events := [e] }

/-- V3: before INIT, LDG is NOTINIT. -/
theorem test_notinit : (after (step (one (hostCMD 0 (.ldg 0)) State.reset))).map (fun t => (statusWord t, t.errCmd)) =
    some (0x302, 0x08000000) := by decide

/-- V57: (0, 0) is not on the curve. -/
theorem test_ecurve : (after (step (one (hostCMD 0 (.pdbl 1 0)) (withRegs [] [(0, ⟨false, 0, 0⟩)])))).map statusWord =
    some 0x522 := by decide

/-- V18: MODINV of N modulo N. -/
theorem test_noinv : (after (step (one (hostCMD 0 (.modinv 1 0 .n)) (withRegs [(0, BitVec.ofNat 256 curveN)] [])))).map
    statusWord = some 0x622 := by decide

/-- V118: a K write while BUSY = 1. -/
theorem test_overrun : (after (step (one (hostW 0 0x104 9) (start 0x02000000 State.reset)))).map
    (fun t => (t.err, t.errCmd, readK t 0, t.inflight)) = some (.overrun, 0x00000104, 0, some 0x02000000) := by decide

/-- V114 and V115: STATUS writes clear ERR and DONE. -/
theorem test_status_write : (after (step (one (hostW 0 0x008 0x80000000) (reject .illop 0x26000000 State.reset)))).map
    (fun t => (t.err, t.done)) = some (.noError, true) ∧
    (after (step (one (hostW 0 0x008 0x00000002) (complete State.reset)))).map State.done = some false := by decide

/-- V119: an 8-bit access, an offset that is not 4-aligned, and one past the window. -/
theorem test_buserr : after (step (one (.host (.read 1 0)) State.reset)) = none ∧
    after (step (one (.host (.read 4 2)) State.reset)) = none ∧
    after (step (one (.host (.write 4 0x800 0)) State.reset)) = none := by decide

/-- V123: `WK 0, 1` in one program of eight steps. -/
theorem test_word_order : wordOf 1 0 = 0 ∧ wordOf 1 7 = 1 ∧ setWord 0 7 1 = 1 := by decide

/-- V122: an RAZ/WI word of a Q slot. -/
theorem test_pad : (after (step (one (hostW 0 0x244 1) State.reset))).map (fun t => t.qv[0]) = some false := by decide

/-! ### Witnesses: the hypotheses of each statement can be met together -/

theorem witness_EncodeOfDecodedWordIsTheWord : decode 0x24683200 = .cmd (.dsmul 3 2 0 3 1) := by decide

/-- A write at an offset of the window is received. -/
theorem receivesWrite_one (s : State) (off : Nat) (v : Word) (h : s.resetLine = false) :
    ReceivesWrite (one (hostW s.base off v) s) off v [] := ⟨rfl, h⟩

/-- So is a read. -/
theorem receivesRead_one (s : State) (off : Nat) (h : s.resetLine = false) :
    ReceivesRead (one (hostR s.base off) s) off [] := ⟨rfl, h⟩

/-- The next access of s is a write of w to CMD. -/
def cmdState (w : Word) (s : State) : State := one (hostW s.base 0x00C w) s

/-- One state for each clause: busy, an error held, a word that passes, a word that fails. -/
theorem witness_CommandWriteIsCheckedThenStartedOrRejected :
    (ReceivesWrite (cmdState 5 (start 0 State.reset)) 0x00C 5 [] ∧ (cmdState 5 (start 0 State.reset)).inflight = some 0) ∧
    (ReceivesWrite (cmdState 0 (reject .rsvd 1 State.reset)) 0x00C 0 [] ∧
      (cmdState 0 (reject .rsvd 1 State.reset)).inflight = none ∧ (cmdState 0 (reject .rsvd 1 State.reset)).err ≠ .noError) ∧
    (ReceivesWrite (cmdState 0 State.reset) 0x00C 0 [] ∧ Idle (cmdState 0 State.reset) ∧
      checks 0 (cmdState 0 State.reset) = .noError) ∧
    (ReceivesWrite (cmdState 1 State.reset) 0x00C 1 [] ∧ Idle (cmdState 1 State.reset) ∧
      checks 1 (cmdState 1 State.reset) ≠ .noError) :=
  ⟨⟨⟨rfl, rfl⟩, rfl⟩, ⟨⟨rfl, rfl⟩, rfl, by decide⟩, ⟨⟨rfl, rfl⟩, ⟨rfl, rfl⟩, by decide⟩, ⟨rfl, rfl⟩, ⟨rfl, rfl⟩, by decide⟩

theorem witness_IllegalOpcodeRaisesIllop : ReceivesWrite (cmdState 0x26000000 State.reset) 0x00C 0x26000000 [] ∧
    Idle (cmdState 0x26000000 State.reset) ∧ illegalOpc (opcOf 0x26000000).toNat = true :=
  ⟨⟨rfl, rfl⟩, ⟨rfl, rfl⟩, by decide⟩

theorem witness_NonzeroReservedFieldRaisesRsvd : ReceivesWrite (cmdState 0x25250000 State.reset) 0x00C 0x25250000 [] ∧
    Idle (cmdState 0x25250000 State.reset) ∧ formatOf (fieldsOf 0x25250000).opc = some .ab ∧
    (fieldsOf 0x25250000).respects .ab = false := ⟨⟨rfl, rfl⟩, ⟨rfl, rfl⟩, by decide, by decide⟩

theorem witness_CommandBeforeInitRaisesNotinit :
    ReceivesWrite (cmdState (encode (.ldg 0)) State.reset) 0x00C (encode (.ldg 0)) [] ∧
    Idle (cmdState (encode (.ldg 0)) State.reset) ∧ (cmdState (encode (.ldg 0)) State.reset).ready = false ∧
    Instr.ldg 0 ≠ .nop ∧ Instr.ldg 0 ≠ .init ∧ Instr.ldg 0 ≠ .clr :=
  ⟨⟨rfl, rfl⟩, ⟨rfl, rfl⟩, rfl, by decide, by decide, by decide⟩

/-- The second K source of a DSMUL is the untagged one (V86). -/
theorem witness_UntaggedSourceRaisesUndef :
    ReceivesWrite (cmdState (encode (.dsmul 2 0 0 1 1)) (withRegs [(0, 2)] [(0, G), (1, G)])) 0x00C
      (encode (.dsmul 2 0 0 1 1)) [] ∧
    Idle (cmdState (encode (.dsmul 2 0 0 1 1)) (withRegs [(0, 2)] [(0, G), (1, G)])) ∧
    (cmdState (encode (.dsmul 2 0 0 1 1)) (withRegs [(0, 2)] [(0, G), (1, G)])).ready = true ∧
    Src.k 1 ∈ sources (.dsmul 2 0 0 1 1) ∧
    tagOf (cmdState (encode (.dsmul 2 0 0 1 1)) (withRegs [(0, 2)] [(0, G), (1, G)])) (.k 1) = false :=
  ⟨⟨rfl, rfl⟩, ⟨rfl, rfl⟩, rfl, by decide, by decide⟩

/-- V57's point, and the two sides of `onCurve`. -/
theorem witness_OffCurveSourceRaisesEcurve :
    ReceivesWrite (cmdState (encode (.pdbl 1 0)) (withRegs [] [(0, ⟨false, 0, 0⟩)])) 0x00C (encode (.pdbl 1 0)) [] ∧
    Idle (cmdState (encode (.pdbl 1 0)) (withRegs [] [(0, ⟨false, 0, 0⟩)])) ∧
    (cmdState (encode (.pdbl 1 0)) (withRegs [] [(0, ⟨false, 0, 0⟩)])).ready = true ∧
    (∀ r ∈ sources (.pdbl 1 0), tagOf (cmdState (encode (.pdbl 1 0)) (withRegs [] [(0, ⟨false, 0, 0⟩)])) r = true) ∧
    Src.q 0 ∈ sources (.pdbl 1 0) ∧
    (readQ (cmdState (encode (.pdbl 1 0)) (withRegs [] [(0, ⟨false, 0, 0⟩)])) 0).onCurve = false ∧ G.onCurve = true :=
  ⟨⟨rfl, rfl⟩, ⟨rfl, rfl⟩, rfl, by decide, by decide, by decide, by decide +kernel⟩

/-- V19: P modulo P. -/
theorem witness_InverseOfZeroRaisesNoinv :
    ReceivesWrite (cmdState (encode (.modinv 1 0 .p)) (withRegs [(0, BitVec.ofNat 256 curveP)] [])) 0x00C
      (encode (.modinv 1 0 .p)) [] ∧
    Idle (cmdState (encode (.modinv 1 0 .p)) (withRegs [(0, BitVec.ofNat 256 curveP)] [])) ∧
    (cmdState (encode (.modinv 1 0 .p)) (withRegs [(0, BitVec.ofNat 256 curveP)] [])).ready = true ∧
    (cmdState (encode (.modinv 1 0 .p)) (withRegs [(0, BitVec.ofNat 256 curveP)] [])).kv[(0 : Fin 8)] = true ∧
    (readK (cmdState (encode (.modinv 1 0 .p)) (withRegs [(0, BitVec.ofNat 256 curveP)] [])) 0).toNat % modulusOf .p = 0 :=
  ⟨⟨rfl, rfl⟩, ⟨rfl, rfl⟩, rfl, by decide, by decide⟩

/-- A MODINV of 2, which has every hypothesis about it. -/
theorem witness_CommandThatPassesEveryCheckStarts :
    ReceivesWrite (cmdState (encode (.modinv 1 0 .n)) (withRegs [(0, 2)] [])) 0x00C (encode (.modinv 1 0 .n)) [] ∧
    Idle (cmdState (encode (.modinv 1 0 .n)) (withRegs [(0, 2)] [])) ∧
    (cmdState (encode (.modinv 1 0 .n)) (withRegs [(0, 2)] [])).ready = true ∧
    (∀ r ∈ sources (.modinv 1 0 .n), tagOf (cmdState (encode (.modinv 1 0 .n)) (withRegs [(0, 2)] [])) r = true) ∧
    (∀ q, Src.q q ∈ sources (.modinv 1 0 .n) →
      (readQ (cmdState (encode (.modinv 1 0 .n)) (withRegs [(0, 2)] [])) q).onCurve = true) ∧
    (∀ d a m, Instr.modinv 1 0 .n = .modinv d a m →
      (readK (cmdState (encode (.modinv 1 0 .n)) (withRegs [(0, 2)] [])) a).toNat % modulusOf m ≠ 0) := by
  refine ⟨⟨rfl, rfl⟩, ⟨rfl, rfl⟩, rfl, by decide, by decide, ?_⟩
  rintro d a m h
  cases h
  decide

/-- CMD, and the two ends of the K and Q windows. -/
theorem witness_WriteWhileBusyIsOverrun :
    ReceivesWrite (one (hostW 0 0x00C 3) (start 0 State.reset)) 0x00C 3 [] ∧
    ReceivesWrite (one (hostW 0 0x100 3) (start 0 State.reset)) 0x100 3 [] ∧
    ReceivesWrite (one (hostW 0 0x5FC 3) (start 0 State.reset)) 0x5FC 3 [] ∧
    (∀ e, (one e (start 0 State.reset)).inflight = some 0) ∧ 0x100 % 4 = 0 ∧ 0x5FC % 4 = 0 ∧ 0x5FC < 0x600 :=
  ⟨⟨rfl, rfl⟩, ⟨rfl, rfl⟩, ⟨rfl, rfl⟩, fun _ => rfl, rfl, rfl, by decide⟩

/-- ENGINE's turn by its event and with no input left, busy and idle. -/
theorem witness_StepRunsTheCommandInFlight :
    (EngineNext (one .engine (start 0x01000000 State.reset)) [] ∧ EngineNext (start 0x01000000 State.reset) [] ∧
      (start 0x01000000 State.reset).inflight = some 0x01000000 ∧ decode 0x01000000 = .cmd .init) ∧
    EngineNext State.reset [] ∧ State.reset.inflight = none :=
  ⟨⟨.inl rfl, .inr ⟨rfl, rfl⟩, rfl, by decide⟩, .inr ⟨rfl, rfl⟩, rfl⟩

/-- Both moduli, and a value above the modulus (V15). -/
theorem witness_ModinvWritesTheInverse :
    (readK (withRegs [(0, 2)] []) 0).toNat % modulusOf .n ≠ 0 ∧ (readK (withRegs [(0, 2)] []) 0).toNat % modulusOf .p ≠ 0 ∧
    (readK (withRegs [(0, BitVec.ofNat 256 (curveN + 2))] []) 0).toNat % modulusOf .n ≠ 0 := by decide

/-- V41: x = 5 has no root, since 132^((P−1)/2) is not 1 modulo P. -/
theorem no_root_of_five : ∀ y, ¬ IsRoot ((5 ^ 3 + 7) % curveP) y := by
  rintro y ⟨-, h⟩
  have := Fact.mk Laws.curveP_prime
  have hsq : ((132 : Nat) : ZMod curveP) = (y : ZMod curveP) ^ 2 := by
    rw [show (132 : Nat) = (5 ^ 3 + 7) % curveP by decide, ← h, ZMod.natCast_mod, Nat.cast_mul, sq]
  have hne : (y : ZMod curveP) ≠ 0 := fun h0 => by
    rw [h0, zero_pow (by decide), Laws.cast_eq_zero_iff] at hsq
    exact absurd hsq (by decide)
  have hone : ((132 : Nat) : ZMod curveP) ^ ((curveP - 1) / 2) = 1 := by
    rw [hsq, ← pow_mul, show 2 * ((curveP - 1) / 2) = curveP - 1 by decide, ZMod.pow_card_sub_one_eq_one hne]
  have hp : ((powMod curveP 132 ((curveP - 1) / 2) : Nat) : ZMod curveP) = ((1 : Nat) : ZMod curveP) := by
    rw [Laws.powMod_eq _ _ _ (by decide), ZMod.natCast_mod, Nat.cast_pow, hone, Nat.cast_one]
  rw [ZMod.natCast_eq_natCast_iff'] at hp
  exact absurd hp (by decide +kernel)

/-- x = 1 has the odd root of V33; x = P is no field element; x = 5 has no root. -/
theorem witness_DecompWritesTheRootOrNone :
    ((readK (withRegs [(0, 1)] []) 0).toNat < curveP ∧
      IsRoot (((readK (withRegs [(0, 1)] []) 0).toNat ^ 3 + 7) % curveP)
        0xBDE70DF51939B94C9C24979FA7DD04EBD9B3572DA7802290438AF2A681895441 ∧
      0xBDE70DF51939B94C9C24979FA7DD04EBD9B3572DA7802290438AF2A681895441 % 2 = parityBit .odd) ∧
    curveP ≤ (readK (withRegs [(0, BitVec.ofNat 256 curveP)] []) 0).toNat ∧
    (∀ y, ¬ IsRoot (((readK (withRegs [(0, 5)] []) 0).toNat ^ 3 + 7) % curveP) y) := by
  refine ⟨⟨by decide, ?_, by decide⟩, by decide, ?_⟩
  · unfold IsRoot
    decide +kernel
  · rw [show (readK (withRegs [(0, 5)] []) 0).toNat = 5 by decide]
    exact no_root_of_five

/-- Points on the curve: two different ones, one twice, and O with nonzero words. -/
theorem witness_PaddWritesTheSum :
    (∀ i : Fin 3, (readQ (withRegs [] [(0, G), (1, negG), (2, ⟨true, 5, 9⟩)]) ⟨i.val, by omega⟩).onCurve = true) := by
  decide +kernel

theorem witness_PdblWritesTheDouble : (readQ (withRegs [] [(0, G)]) 0).onCurve = true ∧
    (readQ (withRegs [] [(0, infReg)]) 0).onCurve = true := by decide +kernel

theorem witness_SmulIsRepeatedAddition : (readQ (withRegs [(0, 3)] [(0, G)]) 0).onCurve = true ∧
    ∃ r, r = repeatedAdd (readK (withRegs [(0, 3)] [(0, G)]) 0).toNat (readPt (withRegs [(0, 3)] [(0, G)]) 0) :=
  ⟨by decide +kernel, _, rfl⟩

theorem witness_DsmulIsTheSumOfTwoMultiples : (readQ (withRegs [(0, 2), (1, 3)] [(0, G), (1, negG)]) 0).onCurve = true ∧
    (readQ (withRegs [(0, 2), (1, 3)] [(0, G), (1, negG)]) 1).onCurve = true := by decide +kernel

/-- G and −G with two scalars. -/
def twoPoints : State := withRegs [(0, 2), (1, 3)] [(0, G), (1, negG)]

/-- The four runs all answer a next state. -/
theorem witness_DsmulEqualsTwoSmulsAndPadd :
    (readQ twoPoints 0).onCurve = true ∧ (readQ twoPoints 1).onCurve = true ∧ (5 : QIdx) ≠ 6 ∧ (5 : QIdx) ≠ 1 ∧
    ∃ s1 s2 s3 t, exec (.smul 5 0 0) twoPoints = .next s1 ∧ exec (.smul 6 1 1) s1 = .next s2 ∧
      exec (.padd 4 5 6) s2 = .next s3 ∧ exec (.dsmul 4 0 0 1 1) twoPoints = .next t :=
  ⟨by decide +kernel, by decide +kernel, by decide, by decide, _, _, _, _, rfl, rfl, rfl, rfl⟩

theorem witness_OrderTimesGeneratorIsInfinity :
    (readK (withRegs [(7, BitVec.ofNat 256 curveN)] [(0, G)]) 7).toNat = curveN ∧
    readPt (withRegs [(7, BitVec.ofNat 256 curveN)] [(0, G)]) 0 = .affine curveGX curveGY := by decide

/-- 2G is the second multiple. -/
theorem witness_ScalarsOfGeneratorMultiplesReduceModN :
    readPt (withRegs [(0, 3)] [(1, twoG)]) 1 = repeatedAdd 2 (.affine curveGX curveGY) := by decide +kernel

theorem witness_PointPlusItsNegationIsInfinity : (readQ (withRegs [] [(0, G), (1, negG)]) 0).onCurve = true ∧
    readPt (withRegs [] [(0, G), (1, negG)]) 1 = ecNeg (readPt (withRegs [] [(0, G), (1, negG)]) 0) := by decide +kernel

/-- A MOVQ and a PDBL of G; the flag NONE is 0 after both. -/
theorem witness_CommandsWriteCurvePoints :
    (∀ r ∈ sources (.movq 1 0), sourceOnCurve (withRegs [] [(0, G)]) r = true) ∧ destQ (.movq 1 0) = some 1 ∧
    (∃ t, exec (.movq 1 0) (withRegs [] [(0, G)]) = .next t ∧ t.flagNone = false) ∧
    (∀ r ∈ sources (.pdbl 1 0), sourceOnCurve (withRegs [] [(0, G)]) r = true) ∧ destQ (.pdbl 1 0) = some 1 ∧
    (∃ t, exec (.pdbl 1 0) (withRegs [] [(0, G)]) = .next t ∧ t.flagNone = false) ∧
    (∀ d a, Instr.pdbl 1 0 ≠ .movq d a) :=
  ⟨by decide +kernel, by decide, ⟨_, rfl, rfl⟩, by decide +kernel, by decide, ⟨_, rfl, rfl⟩, fun _ _ h => nomatch h⟩

/-- A register that is not the destination, for a K and a Q destination, and a command that is neither CLR nor INIT. -/
theorem witness_CompletionChangesOnlyTheDestination :
    (∃ t, exec (.movk 1 0) (withRegs [(0, 2)] []) = .next t) ∧ Instr.movk 1 0 ≠ .clr ∧ Instr.movk 1 0 ≠ .init ∧
    destK (.movk 1 0) ≠ some 2 ∧ destQ (.movk 1 0) ≠ some 1 ∧ destK (.ldg 1) ≠ some 1 ∧ destQ (.ldg 1) ≠ some 2 :=
  ⟨⟨_, rfl⟩, by decide, by decide, by decide, by decide, by decide, by decide⟩

/-- Two states that differ outside the source: another register, ERR and DONE. -/
theorem witness_ResultDependsOnlyOnTheSources :
    (∀ r ∈ sources (.movk 1 0), SameSource (withRegs [(0, 2)] []) (reject .rsvd 1 (withRegs [(0, 2), (3, 9)] [(1, G)])) r) ∧
    (∃ t, exec (.movk 1 0) (withRegs [(0, 2)] []) = .next t) ∧
    (∃ t, exec (.movk 1 0) (reject .rsvd 1 (withRegs [(0, 2), (3, 9)] [(1, G)])) = .next t) ∧
    destK (.movk 1 0) = some 1 ∧ destQ (.ldg 2) = some 2 := by
  refine ⟨?_, ⟨_, rfl⟩, ⟨_, rfl⟩, rfl, rfl⟩
  simp only [sources, List.mem_singleton, forall_eq, SameSource]
  decide

/-- The last word of the K window. -/
theorem witness_IntegerWindowReadsAndWritesOneWord : State.reset.inflight = none ∧
    ReceivesRead (one (hostR 0 0x1FC) State.reset) (0x100 + 0x20 * (7 : Fin 8).val + 4 * (7 : Fin 8).val) [] ∧
    ReceivesWrite (one (hostW 0 0x1FC 3) State.reset) (0x100 + 0x20 * (7 : Fin 8).val + 4 * (7 : Fin 8).val) 3 [] :=
  ⟨rfl, ⟨rfl, rfl⟩, ⟨rfl, rfl⟩⟩

theorem witness_EightWordWritesLoadTheRegister :
    ({ State.reset with events := hostWK 0 3 5 } : State).events = hostWK 0 3 5 ++ [] ∧
    ({ State.reset with events := hostWK 0 3 5 } : State).inflight = none ∧
    ({ State.reset with events := hostWK 0 3 5 } : State).resetLine = false := ⟨(List.append_nil _).symm, rfl, rfl⟩

/-- The last word of X, of Y, the INF word, and the first and last RAZ/WI words of Q7's slot. -/
theorem witness_PointWindowReadsAndWritesOneWord : State.reset.inflight = none ∧
    (∀ off ∈ [0x200 + 0x80 * 7 + 4 * 7, 0x220 + 0x80 * 7 + 4 * 7, 0x240 + 0x80 * 7, 0x244 + 0x80 * 7 + 4 * 0,
        0x244 + 0x80 * 7 + 4 * 14],
      ReceivesRead (one (hostR 0 off) State.reset) off [] ∧ ReceivesWrite (one (hostW 0 off 3) State.reset) off 3 []) :=
  ⟨rfl, fun _ _ => ⟨⟨rfl, rfl⟩, ⟨rfl, rfl⟩⟩⟩

/-- The first word of P and the last of H, idle and busy. -/
theorem witness_ParameterWindowIsConstant :
    ReceivesRead (one (hostR 0 0x600) (start 0 State.reset)) (Param.p.offset + 4 * (0 : Fin 8).val) [] ∧
    ReceivesWrite (one (hostW 0 0x6DC 3) State.reset) (Param.h.offset + 4 * (7 : Fin 8).val) 3 [] :=
  ⟨⟨rfl, rfl⟩, ⟨rfl, rfl⟩⟩

theorem witness_ReadOnlyRegistersIgnoreWrites :
    (∀ off ∈ [0x000, 0x00C, 0x014, 0x018], ReceivesRead (one (hostR 0 off) State.reset) off []) ∧
    ∀ off ∈ [0x000, 0x014, 0x018], ReceivesWrite (one (hostW 0 off 3) State.reset) off 3 [] :=
  ⟨fun _ _ => ⟨rfl, rfl⟩, fun _ _ => ⟨rfl, rfl⟩⟩

theorem witness_StatusReadsFieldsAndClearsByOnes :
    ReceivesRead (one (hostR 0 0x008) (start 0 State.reset)) 0x008 [] ∧
    ReceivesWrite (one (hostW 0 0x008 0x80000002) State.reset) 0x008 0x80000002 [] := ⟨⟨rfl, rfl⟩, ⟨rfl, rfl⟩⟩

theorem witness_ValidReadsTheTags : ReceivesRead (one (hostR 0 0x010) State.reset) 0x010 [] ∧
    ReceivesWrite (one (hostW 0 0x010 3) State.reset) 0x010 3 [] := ⟨⟨rfl, rfl⟩, ⟨rfl, rfl⟩⟩

theorem witness_ControlWriteSetsInterruptEnable : ReceivesRead (one (hostR 0 0x004) State.reset) 0x004 [] ∧
    ReceivesWrite (one (hostW 0 0x004 1) State.reset) 0x004 1 [] := ⟨⟨rfl, rfl⟩, ⟨rfl, rfl⟩⟩

/-- The four ends of the two reserved ranges. -/
theorem witness_ReservedOffsetsReadZeroAndIgnoreWrites :
    (∀ off ∈ [0x01C, 0x0FC, 0x6E0, 0x7FC], off % 4 = 0 ∧ (0x01C ≤ off ∧ off ≤ 0x0FF ∨ 0x6E0 ≤ off ∧ off ≤ 0x7FF)) ∧
    ∀ off, ReceivesRead (one (hostR 0 off) State.reset) off [] ∧ ReceivesWrite (one (hostW 0 off 3) State.reset) off 3 [] :=
  ⟨by decide, fun off => ⟨⟨congrArg (fun n => [hostR n off]) rfl, rfl⟩, ⟨congrArg (fun n => [hostW n off 3]) rfl, rfl⟩⟩⟩

/-- An access of each kind on either side: the last accepted offset, the first past the window, a misaligned one, a narrow
one. -/
theorem witness_OtherAccessesAreBusErrors :
    ((one (.host (.read 4 0x7FC)) State.reset).events = .host (.read 4 0x7FC) :: [] ∧
      (4 = 4 ∧ State.reset.base ≤ 0x7FC ∧ (0x7FC - State.reset.base) % 4 = 0 ∧ 0x7FC - State.reset.base < 0x800)) ∧
    ((one (.host (.write 4 0x800 3)) State.reset).events = .host (.write 4 0x800 3) :: [] ∧
      ¬ (4 = 4 ∧ State.reset.base ≤ 0x800 ∧ (0x800 - State.reset.base) % 4 = 0 ∧ 0x800 - State.reset.base < 0x800)) ∧
    ((one (.host (.read 4 2)) State.reset).events = .host (.read 4 2) :: [] ∧
      ¬ (4 = 4 ∧ State.reset.base ≤ 2 ∧ (2 - State.reset.base) % 4 = 0 ∧ 2 - State.reset.base < 0x800)) ∧
    ((one (.host (.read 1 0)) State.reset).events = .host (.read 1 0) :: [] ∧
      ¬ (1 = 4 ∧ State.reset.base ≤ 0 ∧ (0 - State.reset.base) % 4 = 0 ∧ 0 - State.reset.base < 0x800)) := by decide

theorem witness_ReadsChangeNothing : 0x7FC % 4 = 0 ∧ 0x7FC < 0x800 ∧
    (one (hostR 0 0x7FC) State.reset).events = hostR (one (hostR 0 0x7FC) State.reset).base 0x7FC :: [] ∧
    State.reset.inflight = none := by decide

/-- The two ends of the K and Q windows while busy. -/
theorem witness_BusyWindowReadReturnsAFreeValue :
    ∀ off ∈ [0x100, 0x5FC], (one (hostR 0 off) (start 0 State.reset)).inflight = some 0 ∧ off % 4 = 0 ∧ 0x100 ≤ off ∧
      off < 0x600 ∧ ReceivesRead (one (hostR 0 off) (start 0 State.reset)) off [] := by
  intro off h
  simp only [List.mem_cons, List.not_mem_nil, or_false] at h
  rcases h with rfl | rfl <;> exact ⟨rfl, rfl, by decide, by decide, rfl, rfl⟩

theorem witness_ResetClearsTheBlockAndHoldsIt :
    (one .assertReset (start 0 State.reset)).events = .assertReset :: [] ∧
    (one .releaseReset (assertReset State.reset)).events = .releaseReset :: [] ∧
    (one (hostR 0 0x7FC) (assertReset State.reset)).resetLine = true ∧ 0x7FC % 4 = 0 ∧ 0x7FC < 0x800 ∧
    (one (hostR 0 0x7FC) (assertReset State.reset)).events = hostR 0 0x7FC :: [] ∧
    (one (hostW 0 0x7FC 3) (assertReset State.reset)).events = hostW 0 0x7FC 3 :: [] :=
  ⟨rfl, rfl, rfl, rfl, by decide, rfl, rfl⟩

/-- A busy state that meets the invariant, and its step. -/
theorem witness_EveryStepKeepsTheInvariant :
    State.Inv (start 0x01000000 State.reset) ∧ ∃ t, step (start 0x01000000 State.reset) = .next t :=
  ⟨by decide, _, rfl⟩

/-- A completion that changes a flag. -/
theorem witness_FlagsChangeOnlyAtCompletionOrReset :
    ∃ t, step (start (encode (.peq 1 1)) (withRegs [] [(1, G)])) = .next t ∧
      (t.flagNone, t.flagInf, t.flagEq) ≠
        ((start (encode (.peq 1 1)) (withRegs [] [(1, G)])).flagNone,
          (start (encode (.peq 1 1)) (withRegs [] [(1, G)])).flagInf,
          (start (encode (.peq 1 1)) (withRegs [] [(1, G)])).flagEq) ∧
      (one .assertReset State.reset).events = .assertReset :: [] := ⟨_, rfl, by decide, rfl⟩

/-- READY set by INIT, and cleared by reset. -/
theorem witness_ReadyIsSetByInitAndClearedByReset :
    (∃ t, step (start 0x01000000 State.reset) = .next t ∧ t.ready ≠ (start 0x01000000 State.reset).ready) ∧
    ∃ t, step (one .assertReset (setReady State.reset)) = .next t ∧ t.ready ≠ (one .assertReset (setReady State.reset)).ready :=
  ⟨⟨_, rfl, by decide⟩, _, rfl, by decide⟩

/-- An error cleared by a STATUS write, and ERRCMD written by a rejection. -/
theorem witness_FirstErrorIsKeptUntilCleared :
    (∃ t, step (one (hostW 0 0x008 0x80000000) (reject .illop 0x26000000 State.reset)) = .next t ∧
      (one (hostW 0 0x008 0x80000000) (reject .illop 0x26000000 State.reset)).err ≠ .noError ∧
      t.err ≠ (one (hostW 0 0x008 0x80000000) (reject .illop 0x26000000 State.reset)).err) ∧
    ∃ t, step (cmdState 0x26000000 State.reset) = .next t ∧ t.errCmd ≠ (cmdState 0x26000000 State.reset).errCmd :=
  ⟨⟨_, rfl, by decide, by decide⟩, _, rfl, by decide⟩

/-- DONE set by a completion and by a rejection, and cleared by a STATUS write. -/
theorem witness_DoneIsSetByCompletionOrRejectionOnly :
    (∃ t, step (start 0 State.reset) = .next t ∧ (start 0 State.reset).done = false ∧ t.done = true) ∧
    (∃ t, step (cmdState 1 State.reset) = .next t ∧ (cmdState 1 State.reset).done = false ∧ t.done = true) ∧
    ∃ t, step (one (hostW 0 0x008 2) (complete State.reset)) = .next t ∧
      (one (hostW 0 0x008 2) (complete State.reset)).done = true ∧ t.done = false :=
  ⟨⟨_, rfl, rfl, rfl⟩, ⟨_, rfl, rfl, by decide⟩, _, rfl, rfl, by decide⟩

theorem witness_LastCommandIsTheLastAccepted : ∃ t, step (cmdState 0x01000000 State.reset) = .next t ∧
    t.lastCmd ≠ (cmdState 0x01000000 State.reset).lastCmd := ⟨_, rfl, by decide⟩

theorem witness_OperandsAreFixedWhileBusy : ∃ t, (one (hostW 0 0x104 9) (start 0 State.reset)).inflight = some 0 ∧
    (one (hostW 0 0x104 9) (start 0 State.reset)).events = .host (.write 4 (0 + 0x104) 9) :: [] ∧
    step (one (hostW 0 0x104 9) (start 0 State.reset)) = .next t := ⟨_, rfl, rfl, rfl⟩

/-- An INIT in flight with a STATUS poll and a lost K write still to come. -/
def quietRun : State := { start 0x01000000 State.reset with events := [hostR 0 0x008, hostW 0 0x104 9, .engine] }

theorem witness_CommandInFlightCompletesWithItsOperands :
    quietRun.inflight = some 0x01000000 ∧ decode 0x01000000 = .cmd .init ∧ (∀ e ∈ quietRun.events, Quiet quietRun e) ∧
    ∃ u, exec .init quietRun = .next u := by
  refine ⟨rfl, by decide, ?_, _, rfl⟩
  simp only [quietRun, List.forall_mem_cons, hostR, hostW, Quiet]
  exact ⟨by decide, by decide, trivial, fun _ h => nomatch h⟩

end Sys2Proof.Tests
end

section
/-! SUPPORT. What a completion writes, as a value computed from the state (`60_exceptions.md` R197): the form in which the
scope rules of `00_scope.md` speak of a command's result. -/

namespace Sys2Proof.Proofs

open Sys2Proof.Machine Sys2Proof.Laws

/-- What a completion does to the registers and READY (R24, R27, R100, R172). -/
inductive Update where
  | keep
  | raiseReady
  | clear
  | intReg (d : KIdx) (v : U256)
  | pointReg (d : QIdx) (r : PointReg)

def Update.apply : Update → State → State
  | .keep, s => s
  | .raiseReady, s => setReady s
  | .clear, s => clearRegs s
  | .intReg d v, s => writeK d v s
  | .pointReg d r, s => writeQ d r s

/-- The result of a command (R8): its update and the three flags. -/
structure Completion where
  update : Update
  flagNone : Bool
  flagInf : Bool
  flagEq : Bool

/-- Steps (1) to (3) of R197 for a result. -/
def Completion.apply (c : Completion) (s : State) : State :=
  complete (setFlags c.flagNone c.flagInf c.flagEq (c.update.apply s))

def Completion.int (d : KIdx) (v : U256) : Completion := ⟨.intReg d v, false, false, false⟩

def Completion.point (d : QIdx) (p : Point) : Completion := ⟨.pointReg d (.ofPoint p), false, p.isInfinity, false⟩

/-- The result of each command, before it is applied (R8); `exec_eq_completionOf` ties it to `exec`. -/
def completionOf (i : Instr) (s : State) : Completion :=
  match i with
  | .nop => ⟨.keep, false, false, false⟩
  | .init => ⟨.raiseReady, false, false, false⟩
  | .clr => ⟨.clear, false, false, false⟩
  | .ldg d => .point d (.affine curveGX curveGY)
  | .ldn d => .int d (BitVec.ofNat 256 curveN)
  | .movk d a => .int d (readK s a)
  | .movq d a => ⟨.pointReg d (readQ s a), false, (readQ s a).inf, false⟩
  | .modinv d a m => .int d (BitVec.ofNat 256 (modInv (modulusOf m) ((readK s a).toNat % modulusOf m)))
  | .decomp d a f => (decompress (readK s a).toNat f).elim ⟨.keep, true, false, false⟩
      fun y => .point d (.affine (readK s a).toNat y)
  | .padd d a b => .point d (ecAdd (readPt s a) (readPt s b))
  | .pdbl d a => .point d (ecDbl (readPt s a))
  | .smul d a b => .point d (ecMul (readK s a).toNat (readPt s b))
  | .dsmul d a b c e => .point d (ecAdd (ecMul (readK s a).toNat (readPt s b)) (ecMul (readK s c).toNat (readPt s e)))
  | .peq a b => ⟨.keep, false, false, decide (readPt s a = readPt s b)⟩

theorem exec_eq_completionOf (i : Instr) (s : State) : exec i s = .next ((completionOf i s).apply s) := by
  cases i with
  | decomp d a f =>
    simp only [exec, execDecomp, completionOf]
    cases decompress (readK s a).toNat f <;> rfl
  | _ => rfl

theorem eq_apply_of_exec {i : Instr} {s t : State} (h : exec i s = .next t) : t = (completionOf i s).apply s := by
  rw [exec_eq_completionOf] at h
  exact (Host.Outcome.next.inj h).symm

/-- R8 for the whole result: it is a function of the source registers. -/
theorem completionOf_congr {i : Instr} {s1 s2 : State} (h : ∀ r ∈ sources i, SameSource s1 s2 r) :
    completionOf i s1 = completionOf i s2 := by
  cases i with
  | peq a b =>
    simp only [sources, List.forall_mem_cons, List.not_mem_nil, SameSource] at h
    obtain ⟨ha, hb, -⟩ := h
    have hpa : readPt s1 a = readPt s2 a := congrArg PointReg.pt ha
    have hpb : readPt s1 b = readPt s2 b := congrArg PointReg.pt hb
    rw [completionOf, completionOf, hpa, hpb]
  | _ => simp_all [sources, SameSource, completionOf, readPt]

/-- The K destination of R24 is the one register written. -/
theorem update_of_destK {i : Instr} {d : KIdx} (h : destK i = some d) (s : State) :
    ∃ v, (completionOf i s).update = .intReg d v := by
  cases i <;> cases h <;> exact ⟨_, rfl⟩

/-- The Q destination of R27 is the one register written, unless NONE = 1 (R139). -/
theorem update_of_destQ {i : Instr} {d : QIdx} (h : destQ i = some d) {s : State}
    (hn : (completionOf i s).flagNone = false) : ∃ r, (completionOf i s).update = .pointReg d r := by
  cases i with
  | decomp d' a f =>
    cases h
    cases hy : decompress (readK s a).toNat f with
    | none => simp [completionOf, hy] at hn
    | some y => simp [completionOf, hy, Completion.point]
  | _ => cases h <;> exact ⟨_, rfl⟩

theorem readK_apply {c : Completion} {d : KIdx} {v : U256} (h : c.update = .intReg d v) (s : State) :
    readK (c.apply s) d = v := by
  change readK (c.update.apply s) d = v
  simp [h, Update.apply]

theorem readQ_apply {c : Completion} {d : QIdx} {r : PointReg} (h : c.update = .pointReg d r) (s : State) :
    readQ (c.apply s) d = r := by
  change readQ (c.update.apply s) d = r
  simp [h, Update.apply]

/-- Settles O33: by R8 both states have one result, and a destination holds the value of the result. -/
theorem resultDependsOnlyOnTheSources : Obligations.ResultDependsOnlyOnTheSources := by
  intro i s1 s2 t1 t2 hsrc h1 h2
  have hc := completionOf_congr hsrc
  obtain rfl := eq_apply_of_exec h1
  obtain rfl := eq_apply_of_exec h2
  rw [← hc]
  refine ⟨rfl, rfl, rfl, fun d hd => ?_, fun d hd hn => ?_⟩
  · obtain ⟨v, hv⟩ := update_of_destK hd s1
    rw [readK_apply hv, readK_apply hv]
  · obtain ⟨r, hr⟩ := update_of_destQ hd hn
    rw [readQ_apply hr, readQ_apply hr]

end Sys2Proof.Proofs
end

section
/-! SUPPORT. A command in flight runs to its completion (`00_scope.md` R7, `20_memory.md` R69, R72). -/

namespace Sys2Proof.Proofs

open Sys2Proof.Machine Sys2Proof.Laws

/-- Settles O15: ENGINE's turn is the completion of the command in flight, or idle. -/
theorem stepRunsTheCommandInFlight : Obligations.StepRunsTheCommandInFlight := by
  intro s es h
  rw [step_engine h]
  refine ⟨fun w i hw hd => engineTurn_of_inflight hw hd, fun hi => ?_⟩
  simp only [engineTurn, hi]

/-- Two states hold the same registers, tags and READY: what a completion reads, and what it may change beside the flags
(R24, R27, R35). -/
def SameData (s t : State) : Prop := t.k = s.k ∧ t.kv = s.kv ∧ t.q = s.q ∧ t.qv = s.qv ∧ t.ready = s.ready

theorem SameData.refl (s : State) : SameData s s := ⟨rfl, rfl, rfl, rfl, rfl⟩

theorem SameData.trans {s t u : State} (h : SameData s t) (h' : SameData t u) : SameData s u := by
  obtain ⟨hk, hkv, hq, hqv, hr⟩ := h
  obtain ⟨hk', hkv', hq', hqv', hr'⟩ := h'
  exact ⟨hk'.trans hk, hkv'.trans hkv, hq'.trans hq, hqv'.trans hqv, hr'.trans hr⟩

theorem SameData.sameSource {s t : State} (h : SameData s t) (r : Src) : SameSource s t r := by
  obtain ⟨hk, -, hq, -, -⟩ := h
  cases r <;> simp only [SameSource, readK, readQ, hk, hq]

theorem SameData.apply {s t : State} (h : SameData s t) (c : Completion) : SameData (c.apply s) (c.apply t) := by
  obtain ⟨hk, hkv, hq, hqv, hr⟩ := h
  obtain ⟨u, n, f, e⟩ := c
  cases u <;> simp [SameData, Completion.apply, Update.apply, *]

/-- An accepted access reaches a next state (R61). -/
theorem hostAccess_of_quiet {s : State} {a : Access} (h : Quiet s (.host a)) : ∃ t, hostAccess a s = .next t := by
  cases a <;>
  · obtain ⟨off, ho⟩ := Option.isSome_iff_exists.1 h
    simp [hostAccess, ho]

/-- Which accesses are accepted depends on BASE alone (R6, R61). -/
theorem quiet_of_window_eq {s t : State} {e : Event} (h : Quiet s e) (hw : t.window = s.window) : Quiet t e := by
  have ha : acceptedOffset t = acceptedOffset s := by
    unfold acceptedOffset State.base
    rw [hw]
  cases e with
  | host a => cases a <;> simpa only [Quiet, ha] using h
  | _ => exact h

/-- A quiet access while BUSY = 1 is a step that leaves the command, its operands and BASE as they were (R65, R72). -/
theorem step_of_quiet_access {s : State} {w : Word} {a : Access} {es : List Event} (hw : s.inflight = some w)
    (he : s.events = .host a :: es) (hq : Quiet s (.host a)) :
    ∃ t, step s = .next t ∧ t.inflight = some w ∧ t.events = es ∧ t.window = s.window ∧ SameData s t := by
  obtain ⟨t, ht⟩ := hostAccess_of_quiet (s := { s with events := es }) (quiet_of_window_eq hq rfl)
  obtain ⟨hk, hkv, hq, hqv, -, -, -, hr, -, hi, hwin, hes⟩ := (effect_of_hostAccess ht).busy_frame hw
  exact ⟨t, (step_cons he).trans ht, hi.trans hw, hes, hwin, hk, hkv, hq, hqv, hr⟩

/-- ENGINE's turn with a command in flight is the whole run to its completion (R197). -/
theorem run_of_engineNext {s : State} {w : Word} {i : Instr} {es : List Event} (hw : s.inflight = some w)
    (hd : decode w = .cmd i) (hn : EngineNext s es) :
    ∃ s', SameData s s' ∧ core.run 1 s = .next ((completionOf i s').apply s') := by
  obtain ⟨hbusy, -⟩ := stepRunsTheCommandInFlight s es hn
  exact ⟨{ s with events := es }, .refl s, core_run_succ 0 ((hbusy w i hw hd).trans (exec_eq_completionOf ..))⟩

/-- ENGINE's turn comes within the inputs left and one more step, and finds the operands as they were (R7, R72). -/
theorem run_reaches_completion {w : Word} {i : Instr} (hd : decode w = .cmd i) (es : List Event) :
    ∀ s : State, s.events = es → s.inflight = some w → (∀ e ∈ es, Quiet s e) →
      ∃ n s', n ≤ es.length + 1 ∧ SameData s s' ∧ core.run n s = .next ((completionOf i s').apply s') := by
  induction es with
  | nil =>
    intro s he hw _
    obtain ⟨s', hs, hrun⟩ := run_of_engineNext hw hd (.inr ⟨he, rfl⟩)
    exact ⟨1, s', le_rfl, hs, hrun⟩
  | cons e es ih =>
    intro s he hw hq
    obtain ⟨hqe, hqes⟩ := List.forall_mem_cons.1 hq
    cases e with
    | engine =>
      obtain ⟨s', hs, hrun⟩ := run_of_engineNext hw hd (.inl he)
      exact ⟨1, s', by omega, hs, hrun⟩
    | host a =>
      obtain ⟨t, hstep, hwt, het, hwin, hst⟩ := step_of_quiet_access hw he hqe
      obtain ⟨n, s', hn, hts, hrun⟩ := ih t het hwt fun e he => quiet_of_window_eq (hqes e he) hwin
      exact ⟨n + 1, s', by simpa using hn, hst.trans hts, (core_run_succ n hstep).trans hrun⟩
    | assertReset => exact hqe.elim
    | releaseReset => exact hqe.elim

/-- Settles O57: the operands ENGINE's turn finds are those of the start, so the result is the one of the start. -/
theorem commandInFlightCompletesWithItsOperands : Obligations.CommandInFlightCompletesWithItsOperands := by
  intro s u w i hw hd hq hu
  obtain ⟨n, s', hn, hs, hrun⟩ := run_reaches_completion hd s.events s rfl hw hq
  obtain rfl := eq_apply_of_exec hu
  rw [← completionOf_congr fun r _ => hs.sameSource r] at hrun
  obtain ⟨hk, hkv, hq, hqv, hr⟩ := hs.apply (completionOf i s)
  exact ⟨n, _, hn, hrun, rfl, rfl, hk, hkv, hq, hqv, hr, rfl, rfl, rfl⟩

end Sys2Proof.Proofs
end

section
/-! SUPPORT. The host program `WK i, V` of `00_scope.md` R13 as a run. -/

namespace Sys2Proof.Proofs

open Sys2Proof.Machine Sys2Proof.Laws

/-- The value u after its words `js` were replaced, in order, by those of v (R56). -/
def setWords (v : U256) (js : List (Fin 8)) (u : U256) : U256 := js.foldl (fun u j => setWord u j (wordOf v j)) u

theorem setWords_cons (v : U256) (j : Fin 8) (js : List (Fin 8)) (u : U256) :
    setWords v (j :: js) u = setWords v js (setWord u j (wordOf v j)) := rfl

theorem wordOf_setWords (v : U256) (js : List (Fin 8)) (j : Fin 8) :
    ∀ u, wordOf (setWords v js u) j = if j ∈ js then wordOf v j else wordOf u j := by
  induction js with
  | nil => intro u; rfl
  | cons j' js ih =>
    intro u
    rw [setWords_cons, ih]
    by_cases hj : j = j'
    · subst hj; simp
    · simp [hj, wordOf_setWord_ne]

/-- Once every word was replaced, nothing of the old value is left (R51). -/
theorem setWords_of_forall_mem {js : List (Fin 8)} (h : ∀ j, j ∈ js) (v u : U256) : setWords v js u = v :=
  eq_of_wordOf_eq fun j => by rw [wordOf_setWords, if_pos (h j)]

@[simp] theorem writeK_writeK (d : KIdx) (u v : U256) (s : State) : writeK d v (writeK d u s) = writeK d v s := by
  simp [writeK]

/-- A write of word j of K_i with BUSY = 0 (R56). -/
theorem step_write_kWord {s : State} {i : KIdx} {j : Fin 8} {v : Word} {es : List Event} (hi : s.inflight = none)
    (h : ReceivesWrite s (0x100 + 0x20 * i.val + 4 * j.val) v es) :
    step s = .next (writeK i (setWord (readK s i) j v) { s with events := es }) := by
  rw [step_write h (by omega) (by omega)]
  have hidle : State.busy { s with events := es } = false := by simp [State.busy, hi]
  rw [windowWrite, hidle, Bool.false_and, if_neg Bool.false_ne_true, winReg_kWord]
  rfl

/-- The writes of the words `js` of V to K_i (R13). -/
def wordWrites (base : Nat) (i : KIdx) (v : U256) (js : List (Fin 8)) : List Event :=
  js.map fun j => hostW base (0x100 + 0x20 * i.val + 4 * j.val) (wordOf v j)

theorem hostWK_eq_wordWrites (base : Nat) (i : KIdx) (v : U256) :
    hostWK base i v = wordWrites base i v [0, 1, 2, 3, 4, 5, 6, 7] := rfl

/-- A run of word writes leaves K_i with those words replaced and tagged, each write overwriting the one before. -/
theorem run_word_writes (i : KIdx) (v : U256) (js : List (Fin 8)) (es : List Event) : ∀ (j : Fin 8) (s : State),
    s.inflight = none → s.resetLine = false → s.events = wordWrites s.base i v (j :: js) ++ es →
    core.run (js.length + 1) s = .next (writeK i (setWords v (j :: js) (readK s i)) { s with events := es }) := by
  induction js with
  | nil =>
    intro j s hi hr he
    exact core_run_succ 0 (step_write_kWord hi ⟨he, hr⟩)
  | cons j' js ih =>
    intro j s hi hr he
    have hfirst := core_run_succ (js.length + 1) (step_write_kWord hi ⟨he, hr⟩)
    have hrest := ih j' (writeK i (setWord (readK s i) j (wordOf v j))
      { s with events := wordWrites s.base i v (j' :: js) ++ es }) hi hr rfl
    refine hfirst.trans (hrest.trans ?_)
    rw [readK_writeK, if_pos rfl]
    exact congrArg Host.Outcome.next (writeK_writeK i _ _ { s with events := es })

/-- Settles O36: the eight writes replace every word of K_i. -/
theorem eightWordWritesLoadTheRegister : Obligations.EightWordWritesLoadTheRegister := by
  intro s i v es he hi hr
  rw [hostWK_eq_wordWrites] at he
  have hrun := run_word_writes i v [1, 2, 3, 4, 5, 6, 7] es 0 s hi hr he
  rw [setWords_of_forall_mem (by decide)] at hrun
  exact hrun

end Sys2Proof.Proofs
end

section
/-! SUPPORT. The modular inverse of `00_scope.md` R10: it is unique, and for the primes n and p `modInv` is it. -/

namespace Sys2Proof.Proofs

open Sys2Proof.Machine Sys2Proof.Laws

/-- R10: a·z ≡ a·y, and a is invertible modulo m. -/
theorem isInverse_unique {m a y z : Nat} (hy : IsInverse m a y) (hz : IsInverse m a z) : z = y := by
  obtain ⟨hy0, hym, hy1⟩ := hy
  obtain ⟨-, hzm, hz1⟩ := hz
  have hone : a * y ≡ 1 [MOD m] := hy1.trans (Nat.mod_eq_of_lt (by omega)).symm
  have hcop : m.Coprime a := (Nat.coprime_of_mul_modEq_one y hone).symm
  exact (Nat.ModEq.cancel_left_of_coprime hcop (hz1.trans hy1.symm)).eq_of_lt_of_lt hzm hym

theorem modulusOf_prime : ∀ m, (modulusOf m).Prime
  | .n => curveN_prime
  | .p => curveP_prime

theorem modulusOf_lt : ∀ m, modulusOf m < 2 ^ 256
  | .n => by decide
  | .p => curveP_lt

/-- Fermat: a · a^(m−2) = a^(m−1) ≡ 1 (R10, R122). -/
theorem isInverse_modInv {m a : Nat} (hm : m.Prime) (hlt : m < 2 ^ 256) (ha : a % m ≠ 0) :
    IsInverse m a (modInv m (a % m)) := by
  have hcop : a.Coprime m := (hm.coprime_iff_not_dvd.2 fun hdvd => ha (Nat.mod_eq_zero_of_dvd hdvd)).symm
  have hval : modInv m (a % m) = a ^ (m - 2) % m := by
    rw [modInv, Nat.mod_mod, if_neg ha, powMod_eq _ _ _ (by omega), ← Nat.pow_mod]
  have hone : a * modInv m (a % m) % m = 1 := by
    have h2 : m - 1 = m - 2 + 1 := by have := hm.two_le; omega
    rw [hval, Nat.mul_mod_mod, ← pow_succ', ← h2, Nat.ModEq.pow_card_sub_one_eq_one hm hcop,
      Nat.mod_eq_of_lt hm.one_lt]
  refine ⟨Nat.one_le_iff_ne_zero.2 fun h0 => ?_, hval ▸ Nat.mod_lt _ hm.pos, hone⟩
  rw [h0] at hone
  simp at hone

/-- Settles O19: n and p are prime, so `modInv` computes the one inverse. -/
theorem modinvWritesTheInverse : Obligations.ModinvWritesTheInverse := by
  intro s d a m ha
  have hinv := isInverse_modInv (modulusOf_prime m) (modulusOf_lt m) ha
  exact ⟨_, hinv, fun z hz => isInverse_unique hinv hz, rfl⟩

end Sys2Proof.Proofs
end

section
/-! SUPPORT. The invariant of the block: what each effect of a step leaves of its five parts (`10_state.md` R23, R31 to R33,
`60_exceptions.md` R196, R197, `70_reset_and_hazards.md` R230). -/

namespace Sys2Proof.Proofs

open Sys2Proof.Machine Sys2Proof.Laws

/-- Settles O47: each value of R43 is computed. -/
theorem resetValuesAreTheListedOnes : Obligations.ResetValuesAreTheListedOnes := by
  unfold Obligations.ResetValuesAreTheListedOnes
  decide

/-- Settles O49: the five parts of the invariant are computed for the one state. -/
theorem resetSatisfiesTheInvariant : Obligations.ResetSatisfiesTheInvariant := by
  unfold Obligations.ResetSatisfiesTheInvariant
  decide

/-! ### The parts of the invariant -/

theorem inflightAccepted_iff (s : State) : s.InflightAccepted ↔ ∀ w, s.inflight = some w → checks w s = .noError := by
  cases h : s.inflight <;> simp [State.InflightAccepted, h]

theorem SameData.checks_eq {s t : State} (h : SameData s t) (w : Word) : checks w t = checks w s := by
  obtain ⟨hk, hkv, hq, hqv, hr⟩ := h
  exact checks_congr w hr hk hkv hq hqv

theorem resetHolds_of_resetLine_eq_false {s : State} (h : s.resetLine = false) : s.ResetHolds :=
  fun hr => nomatch h.symm.trans hr

/-- A command in flight means that reset is not asserted, since reset abandons it (R44, R230). -/
theorem resetLine_eq_false_of_inflight {s : State} {w : Word} (hs : s.ResetHolds) (hw : s.inflight = some w) :
    s.resetLine = false := by
  by_contra hr
  have hnone : s.inflight = none := congrArg State.inflight (hs (by simpa using hr))
  exact nomatch hnone.symm.trans hw

/-- A write of one register sets its tag, so the registers left without a tag are among those before (R23). -/
theorem untagged_eq_of_set {α : Type} {vals : Vector α 8} {tags : Vector Bool 8} {x : α}
    (h : ∀ j : Fin 8, tags[j] = false → vals[j] = x) (d : Fin 8) (v : α) :
    ∀ j : Fin 8, (tags.set d true)[j] = false → (vals.set d v)[j] = x := by
  intro j hj
  by_cases hd : d.val = j.val
  · simp [hd] at hj
  · simp only [Fin.getElem_fin, Vector.getElem_set_ne _ _ hd] at hj ⊢
    exact h j hj

theorem untaggedAreZero_writeK {s : State} (h : s.UntaggedAreZero) (d : KIdx) (v : U256) :
    (writeK d v s).UntaggedAreZero := ⟨untagged_eq_of_set h.1 d v, h.2⟩

theorem untaggedAreZero_writeQ {s : State} (h : s.UntaggedAreZero) (d : QIdx) (r : PointReg) :
    (writeQ d r s).UntaggedAreZero := ⟨h.1, untagged_eq_of_set h.2 d r⟩

theorem untaggedAreZero_of_written {i : Instr} {s u : State} (h : Written i s u) (hs : s.UntaggedAreZero) :
    u.UntaggedAreZero := by
  cases h with
  | nothing => exact hs
  | ready => exact hs
  | cleared => simp [State.UntaggedAreZero]
  | intReg d v => exact untaggedAreZero_writeK hs d v
  | pointReg d r => exact untaggedAreZero_writeQ hs d r

theorem ready_of_written {i : Instr} {s u : State} (h : Written i s u) (hs : s.ready = true) : u.ready = true := by
  cases h with
  | ready => rfl
  | _ => exact hs

/-! ### The invariant across one effect -/

/-- Two states hold the same data, flags, command in flight and LASTCMD: all the invariant speaks of but the reset input. -/
def SameCommand (s t : State) : Prop :=
  SameData s t ∧ t.flagNone = s.flagNone ∧ t.flagInf = s.flagInf ∧ t.flagEq = s.flagEq ∧ t.inflight = s.inflight ∧
    t.lastCmd = s.lastCmd

theorem SameCommand.inv {s t : State} (h : SameCommand s t) (hs : s.Inv) (hr : t.ResetHolds) : t.Inv := by
  obtain ⟨hd, hn, hf, he, hi, hl⟩ := h
  obtain ⟨hacc, hlast, hzero, hflags, -⟩ := hs
  refine ⟨?_, ?_, ?_, ?_, hr⟩
  · rw [inflightAccepted_iff] at hacc ⊢
    simpa only [hi, hd.checks_eq] using hacc
  · simpa only [State.InflightIsLast, hi, hl] using hlast
  · obtain ⟨hk, hkv, hq, hqv, -⟩ := hd
    simpa only [State.UntaggedAreZero, hk, hkv, hq, hqv] using hzero
  · obtain ⟨-, -, -, -, hready⟩ := hd
    simpa only [State.FlagsExclusive, hn, hf, he, hready] using hflags

/-- With no command in flight and reset not asserted, the tags and the flags are all there is to the invariant. -/
theorem inv_of_idle {s : State} (hi : s.inflight = none) (hr : s.resetLine = false) (hz : s.UntaggedAreZero)
    (hf : s.FlagsExclusive) : s.Inv :=
  ⟨(inflightAccepted_iff s).2 fun _ hw => (nomatch hi.symm.trans hw), .inl hi, hz, hf,
    resetHolds_of_resetLine_eq_false hr⟩

theorem inv_assertReset (s : State) : (assertReset s).Inv :=
  SameCommand.inv (s := State.reset) ⟨⟨rfl, rfl, rfl, rfl, rfl⟩, rfl, rfl, rfl, rfl, rfl⟩ resetSatisfiesTheInvariant
    fun _ => rfl

/-- The command that starts has just passed its checks, which read nothing that starting it changes (R196). -/
theorem inv_start {s : State} {w : Word} (hs : s.Inv) (hr : s.resetLine = false) (hc : checks w s = .noError) :
    (start w s).Inv := by
  obtain ⟨-, -, hzero, hflags, -⟩ := hs
  have hsame : SameData s (start w s) := ⟨rfl, rfl, rfl, rfl, rfl⟩
  refine ⟨(inflightAccepted_iff _).2 fun v hv => ?_, .inr rfl, hzero, hflags, resetHolds_of_resetLine_eq_false hr⟩
  obtain rfl : w = v := Option.some.inj hv
  exact (hsame.checks_eq w).trans hc

/-- A completion with READY = 0 is one of NOP, INIT and CLR, since the command passed its checks; these set no flag
(R100, R170, R172, R192). -/
theorem inv_of_exec {s t : State} {w : Word} {i : Instr} (hs : s.Inv) (hw : s.inflight = some w)
    (hd : decode w = .cmd i) (h : exec i s = .next t) : t.Inv := by
  obtain ⟨hacc, -, hzero, -, hreset⟩ := hs
  obtain ⟨u, n, f, e, hu, rfl, hnf, hne, hfe, hquiet⟩ := exec_cases h
  have hpass := (checks_of_decode hd s).symm.trans ((inflightAccepted_iff s).1 hacc w hw)
  obtain ⟨hready, -, -, -⟩ := (cmdChecks_eq_noError_iff i s).1 hpass
  have hline : u.resetLine = false := by
    rw [← resetLine_eq_false_of_inflight hreset hw]
    cases hu <;> rfl
  have hzero' : u.UntaggedAreZero := untaggedAreZero_of_written hu hzero
  have hready' : s.ready = true → u.ready = true := ready_of_written hu
  refine inv_of_idle rfl hline hzero' ⟨hnf, hne, hfe, fun hu0 => hquiet ?_⟩
  exact hready.resolve_left fun hs1 => nomatch hu0.symm.trans (hready' hs1)

/-- What one input does to the block keeps the invariant. -/
theorem inv_of_effect {e : Event} {s t : State} (h : Effect e s t) (hs : s.Inv) : t.Inv := by
  have ⟨_, _, hzero, hflags, hreset⟩ := hs
  cases h with
  | idle => exact hs
  | completed w i hw hd hx => exact inv_of_exec hs hw hd hx
  | reset => exact inv_assertReset s
  | released => exact SameCommand.inv (by simp [SameCommand, SameData]) hs (resetHolds_of_resetLine_eq_false rfl)
  | read v =>
    exact SameCommand.inv (by simp [SameCommand, SameData]) hs fun hr => congrArg (respond v) (hreset hr)
  | ignored => exact hs
  | started hr hi he hc => exact inv_start hs hr hc
  | intWord i u hr hi => exact inv_of_idle hi hr (untaggedAreZero_writeK hzero i u) hflags
  | pointWord i u hr hi => exact inv_of_idle hi hr (untaggedAreZero_writeQ hzero i u) hflags
  | readFree | ctrl | status | overrun | rejected =>
    exact SameCommand.inv (by simp [SameCommand, SameData]) hs (resetHolds_of_resetLine_eq_false (by simpa))

/-- Consuming an input touches nothing of the block. -/
theorem inv_consume {s : State} (hs : s.Inv) (es : List Event) : State.Inv { s with events := es } := by
  have ⟨_, _, _, _, hreset⟩ := hs
  exact SameCommand.inv ⟨.refl s, rfl, rfl, rfl, rfl, rfl⟩ hs fun hr =>
    congrArg (fun u : State => { u with events := es }) (hreset hr)

/-- Settles O50: a step is one effect of one input, and every effect keeps the invariant. -/
theorem everyStepKeepsTheInvariant : Obligations.EveryStepKeepsTheInvariant := by
  intro s t hs h
  obtain ⟨e, es, -, heff⟩ := step_effect h
  exact inv_of_effect heff (inv_consume hs es)

end Sys2Proof.Proofs
end

section
/-! SUPPORT. The frame of a completion (`10_state.md` R24, R27, `60_exceptions.md` R197), and what a step changes of the
flags, READY, ERR and LASTCMD, read off its one effect (`10_state.md` R34 to R37). -/

namespace Sys2Proof.Proofs

open Sys2Proof.Machine Sys2Proof.Laws

/-! ### The frame of a completion -/

/-- A K register that is not the destination keeps its value and its tag (R24). -/
theorem k_of_written {i : Instr} {s u : State} (h : Written i s u) (hc : i ≠ .clr) {j : KIdx} (hj : destK i ≠ some j) :
    u.k[j] = s.k[j] ∧ u.kv[j] = s.kv[j] := by
  cases h with
  | cleared h => exact absurd h hc
  | intReg d v h =>
    have hne : d.val ≠ j.val := fun hd => hj (h.trans (congrArg some (Fin.ext hd)))
    exact ⟨Vector.getElem_set_ne d.isLt j.isLt hne, Vector.getElem_set_ne d.isLt j.isLt hne⟩
  | _ => exact ⟨rfl, rfl⟩

/-- A Q register that is not the destination keeps its value and its tag (R27). -/
theorem q_of_written {i : Instr} {s u : State} (h : Written i s u) (hc : i ≠ .clr) {j : QIdx} (hj : destQ i ≠ some j) :
    u.q[j] = s.q[j] ∧ u.qv[j] = s.qv[j] := by
  cases h with
  | cleared h => exact absurd h hc
  | pointReg d r h =>
    have hne : d.val ≠ j.val := fun hd => hj (h.trans (congrArg some (Fin.ext hd)))
    exact ⟨Vector.getElem_set_ne d.isLt j.isLt hne, Vector.getElem_set_ne d.isLt j.isLt hne⟩
  | _ => exact ⟨rfl, rfl⟩

theorem ready_of_written_of_ne_init {i : Instr} {s u : State} (h : Written i s u) (hi : i ≠ .init) : u.ready = s.ready := by
  cases h with
  | ready h => exact absurd h hi
  | _ => rfl

/-- Settles O32: a completion writes what `Written` says, then only the flags, BUSY and DONE. -/
theorem completionChangesOnlyTheDestination : Obligations.CompletionChangesOnlyTheDestination := by
  intro i s t h
  obtain ⟨u, n, f, e, hu, rfl, -⟩ := exec_cases h
  have hready : i ≠ .init → u.ready = s.ready := ready_of_written_of_ne_init hu
  refine ⟨fun hc j hj => k_of_written hu hc hj, fun hc j hj => q_of_written hu hc hj, hready, ?_⟩
  cases hu <;> exact ⟨rfl, rfl, rfl, rfl, rfl, rfl, rfl, rfl, rfl, rfl, rfl⟩

/-! ### What a step changes -/

theorem step_assertReset {s : State} {es : List Event} (h : s.events = .assertReset :: es) :
    step s = .next (assertReset { s with events := es }) := step_cons h

theorem receivesWrite_of_takes {s : State} {off : Nat} {v : Word} {es : List Event}
    (h : Takes s (hostW s.base off v) es) (hr : s.resetLine = false) : ReceivesWrite s off v es := ⟨h.events_eq nofun, hr⟩

/-- Settles O51: of the effects of an input, the completion and the assertion of reset alone write a flag. -/
theorem flagsChangeOnlyAtCompletionOrReset : Obligations.FlagsChangeOnlyAtCompletionOrReset := by
  refine ⟨fun s t h hne => ?_, fun s es he => ⟨_, step_assertReset he, rfl⟩, fun s => ⟨_, rfl, rfl⟩⟩
  obtain ⟨e, es, htake, heff⟩ := step_effect h
  cases heff with
  | completed w i hw hd => exact .inl ⟨es, w, i, htake.engineNext, hw, hd⟩
  | reset => exact .inr ⟨es, htake.events_eq nofun⟩
  | _ => exact absurd (by simp) hne

/-- Settles O52: of the effects of an input, the completion of INIT and the assertion of reset alone write READY. -/
theorem readyIsSetByInitAndClearedByReset : Obligations.ReadyIsSetByInitAndClearedByReset := by
  refine ⟨rfl, fun s => ⟨_, rfl, rfl⟩, fun s t h hne => ?_⟩
  obtain ⟨e, es, htake, heff⟩ := step_effect h
  cases heff with
  | completed w i hw hd hx =>
    obtain ⟨-, -, hready, -⟩ := completionChangesOnlyTheDestination _ _ _ hx
    obtain rfl : i = .init := by
      by_contra hi
      exact hne (hready hi)
    cases hx
    exact .inl ⟨rfl, es, w, htake.engineNext, hw, hd⟩
  | reset => exact .inr ⟨rfl, es, htake.events_eq nofun⟩
  | _ => exact absurd (by simp) hne

/-- Settles O53: a STATUS write clears ERR, OVERRUN and a rejection record where no error is held, and reset clears both
registers; no other effect of an input writes ERR or ERRCMD. -/
theorem firstErrorIsKeptUntilCleared : Obligations.FirstErrorIsKeptUntilCleared := by
  intro s t h
  obtain ⟨e, es, htake, heff⟩ := step_effect h
  cases heff with
  | completed w i hw hd hx =>
    obtain ⟨-, -, -, herr, hcmd, -⟩ := completionChangesOnlyTheDestination _ _ _ hx
    exact ⟨fun _ hne => absurd herr hne, fun hne => absurd hcmd hne⟩
  | reset =>
    have hes := htake.events_eq nofun
    exact ⟨fun _ _ => ⟨rfl, .inl ⟨es, hes⟩⟩, fun _ => .inr ⟨es, hes⟩⟩
  | @status _ v hr =>
    refine ⟨fun _ hne => ?_, fun hne => absurd (by simp) hne⟩
    have hbit : v.getLsbD 31 = true := by
      by_contra hb
      exact hne ((writeStatus_err ..).trans (if_neg hb))
    exact ⟨(writeStatus_err ..).trans (if_pos hbit), .inr ⟨v, es, receivesWrite_of_takes htake hr, hbit⟩⟩
  | overrun =>
    refine ⟨fun he hne => absurd (by simp [he]) hne, fun hne => .inl ?_⟩
    have he : s.err = .noError := by
      by_contra he
      exact hne (by simp [he])
    simp [he]
  | rejected hr hi he hc =>
    exact ⟨fun hs => absurd he hs, fun _ => .inl ⟨he, ((reject_err ..).trans (if_pos he)).trans_ne hc⟩⟩
  | _ => exact ⟨fun _ hne => absurd (by simp) hne, fun hne => absurd (by simp) hne⟩

/-- Settles O55: of the effects of an input, the start of a command and the assertion of reset alone write LASTCMD. -/
theorem lastCommandIsTheLastAccepted : Obligations.LastCommandIsTheLastAccepted := by
  intro s t h hne
  obtain ⟨e, es, htake, heff⟩ := step_effect h
  cases heff with
  | completed w i hw hd hx =>
    obtain ⟨-, -, -, -, -, hlast, -⟩ := completionChangesOnlyTheDestination _ _ _ hx
    exact absurd hlast hne
  | reset => exact .inr ⟨es, htake.events_eq nofun⟩
  | @started _ v hr hi he hc =>
    have hc' : checks v s = .noError := (checks_congr v rfl rfl rfl rfl rfl).symm.trans hc
    exact .inl ⟨v, es, receivesWrite_of_takes htake hr, hi, hc', rfl, rfl⟩
  | _ => exact absurd (by simp) hne

end Sys2Proof.Proofs
end

section
/-! SUPPORT. The word of a command decodes to it (`30_encoding.md` R84 to R86). -/

namespace Sys2Proof.Proofs

open Sys2Proof.Machine Sys2Proof.Laws

/-- A word with well-formed fields passes the mask test of its row (R86, R88). -/
theorem decode_of_wellFormed {w : Word} {op : Op} (hwf : (fieldsOf w).wellFormed = true)
    (ho : lookupOp (opcOf w) = some op) : decode w = .cmd (op.build w) := by
  unfold Fields.wellFormed at hwf
  split at hwf
  · cases hwf
  · next fmt hf => simp only [decode, ho, (and_mask_eq_pattern_iff ho hf).2 hwf, if_true]

theorem encode_wellFormed (i : Instr) : (fieldsOf (encode i)).wellFormed = true := by
  cases i with
  | nop => exact EncodeWf.nop
  | init => exact EncodeWf.init
  | clr => exact EncodeWf.clr
  | ldg d => exact EncodeWf.ldg d
  | ldn d => exact EncodeWf.ldn d
  | movk d a => exact EncodeWf.movk d a
  | movq d a => exact EncodeWf.movq d a
  | modinv d a m => exact EncodeWf.modinv d a m
  | decomp d a f => exact EncodeWf.decomp d a f
  | padd d a b => exact EncodeWf.padd d a b
  | pdbl d a => exact EncodeWf.pdbl d a
  | smul d a b => exact EncodeWf.smul d a b
  | dsmul d a b c e => exact EncodeWf.dsmul d a b c e
  | peq a b => exact EncodeWf.peq a b

/-- The word holds these operands in the fields of R81, with RSV = 0. -/
def HoldsFields (w : Word) (opc : BitVec 8) (d a b c e : Fin 8) (f : BitVec 1) : Prop :=
  fieldsOf w = ⟨opc, .ofFin d, .ofFin a, .ofFin b, .ofFin c, .ofFin e, f, 0⟩

/-- What the decoder reads of a word is what its fields hold (R83). -/
theorem HoldsFields.read {w : Word} {opc : BitVec 8} {d a b c e : Fin 8} {f : BitVec 1}
    (h : HoldsFields w opc d a b c e f) :
    opcOf w = opc ∧ fieldD w = d ∧ fieldA w = a ∧ fieldB w = b ∧ fieldC w = c ∧ fieldE w = e ∧
      w.getLsbD 8 = f.getLsbD 0 :=
  ⟨congrArg Fields.opc h, congrArg (·.d.toFin) h, congrArg (·.a.toFin) h, congrArg (·.b.toFin) h,
    congrArg (·.c.toFin) h, congrArg (·.e.toFin) h, by simpa [fieldsOf] using congrArg (·.f.getLsbD 0) h⟩

/-- R86 for the word of a command, given the row of R84 that builds the command from its fields. -/
theorem decode_encode_of_row {i : Instr} {op : Op} {opc : BitVec 8} {d a b c e : Fin 8} {f : BitVec 1}
    (h : HoldsFields (encode i) opc d a b c e f) (ho : lookupOp opc = some op)
    (hb : ∀ w, fieldD w = d → fieldA w = a → fieldB w = b → fieldC w = c → fieldE w = e →
      w.getLsbD 8 = f.getLsbD 0 → op.build w = i) : decode (encode i) = .cmd i := by
  obtain ⟨hopc, hd, ha, hb', hc, he, hf⟩ := h.read
  rw [← hopc] at ho
  rw [decode_of_wellFormed (encode_wellFormed i) ho, hb _ hd ha hb' hc he hf]

theorem holdsFields_enc (opc : BitVec 8) (d a b c e : Fin 8) : HoldsFields (enc opc d a b c e) opc d a b c e 0 :=
  fieldsOf_enc opc d a b c e

theorem holdsFields_enc_f (opc : BitVec 8) (d a b c e : Fin 8) :
    HoldsFields (enc opc d a b c e ||| 0x100) opc d a b c e 1 := fieldsOf_enc_f opc d a b c e

theorem holdsFields_enc_or_zero (opc : BitVec 8) (d a b c e : Fin 8) :
    HoldsFields (enc opc d a b c e ||| 0) opc d a b c e 0 := by
  rw [BitVec.ofNat_eq_ofNat, BitVec.or_zero]
  exact holdsFields_enc opc d a b c e

/-- R85, R86: the row of each command builds it from the fields of its word. -/
theorem decode_encode (i : Instr) : decode (encode i) = .cmd i := by
  cases i with
  | nop | init | clr => rfl
  | modinv d a m =>
    cases m with
    | n => exact decode_encode_of_row (holdsFields_enc_or_zero ..) rfl (by simp_all [Op.build, fieldModulus])
    | p => exact decode_encode_of_row (holdsFields_enc_f ..) rfl (by simp_all [Op.build, fieldModulus])
  | decomp d a f =>
    cases f with
    | even => exact decode_encode_of_row (holdsFields_enc_or_zero ..) rfl (by simp_all [Op.build, fieldParity])
    | odd => exact decode_encode_of_row (holdsFields_enc_f ..) rfl (by simp_all [Op.build, fieldParity])
  | ldg | ldn | movk | movq | padd | pdbl | smul | dsmul | peq =>
    exact decode_encode_of_row (holdsFields_enc ..) rfl (by simp_all [Op.build])

end Sys2Proof.Proofs
end

section
/-! SUPPORT. Rejection at a write to CMD (`60_exceptions.md` R192 to R194), and the curve equation of `10_state.md` R28 over
the integers. -/

namespace Sys2Proof.Proofs

open Sys2Proof.Machine Sys2Proof.Laws

/-- A word that fails a check is rejected: ERR, ERRCMD and DONE, and nothing else (R193, R194). -/
theorem step_rejects {s : State} {w : Word} {e : ErrCode} {es : List Event} (h : ReceivesWrite s 0x00C w es)
    (hidle : Idle s) (hc : checks w s = e) (he : e ≠ .noError) :
    step s = .next { s with events := es, err := e, errCmd := w, done := true } := by
  obtain ⟨hi, herr⟩ := hidle
  subst hc
  have hsame : checks w { s with events := es } = checks w s := checks_congr w rfl rfl rfl rfl rfl
  rw [step_cmdWrite h, cmdWrite_eq, hsame]
  simp [State.busy, hi, herr, he, reject, record]

theorem checks_encode (i : Instr) (s : State) : checks (encode i) s = cmdChecks i s :=
  checks_of_decode (decode_encode i) s

theorem cmdChecks_eq_undef {i : Instr} {s : State} {r : Src} (hr : s.ready = true) (hmem : r ∈ sources i)
    (ht : tagOf s r = false) : cmdChecks i s = .undef := by
  have hany : ((sources i).any fun r => !tagOf s r) = true := List.any_eq_true.2 ⟨r, hmem, by simp [ht]⟩
  simp [cmdChecks, hr, hany]

theorem cmdChecks_eq_ecurve {i : Instr} {s : State} {r : Src} (hr : s.ready = true)
    (ht : ∀ r ∈ sources i, tagOf s r = true) (hmem : r ∈ sources i) (hc : sourceOnCurve s r = false) :
    cmdChecks i s = .ecurve := by
  have hnone : ((sources i).any fun r => !tagOf s r) = false := by simpa using ht
  have hany : ((sources i).any fun r => !sourceOnCurve s r) = true := List.any_eq_true.2 ⟨r, hmem, by simp [hc]⟩
  simp [cmdChecks, hr, hnone, hany]

/-- Settles O10: the tag check is the first one that READY = 1 leaves. -/
theorem untaggedSourceRaisesUndef : Obligations.UntaggedSourceRaisesUndef := by
  intro s i r es h hidle hr hmem ht
  exact step_rejects h hidle ((checks_encode i s).trans (cmdChecks_eq_undef hr hmem ht)) nofun

/-- R28 over the integers: both sides of the equation agree in the field exactly when P divides their difference. -/
theorem pointReg_onCurve_iff (r : PointReg) : r.onCurve = true ↔ r.inf = true ∨ (r.x.toNat < curveP ∧ r.y.toNat < curveP ∧
    (((r.y.toNat : Int) ^ 2 - ((r.x.toNat : Int) ^ 3 + 7)) % (curveP : Int) = 0)) := by
  rw [PointReg.onCurve, Bool.or_eq_true, affineOnCurve_iff, ← Int.dvd_iff_emod_eq_zero, ← ZMod.intCast_zmod_eq_zero_iff_dvd]
  push_cast
  rw [sub_eq_zero]

/-- Settles O11: past the tags, the curve check rejects the source. -/
theorem offCurveSourceRaisesEcurve : Obligations.OffCurveSourceRaisesEcurve := by
  refine ⟨pointReg_onCurve_iff, fun s i q es h hidle hr ht hmem hq => ?_⟩
  exact step_rejects h hidle ((checks_encode i s).trans (cmdChecks_eq_ecurve hr ht hmem hq)) nofun

end Sys2Proof.Proofs
end

section
/-! SUPPORT. The CTRL register (`10_state.md` R38, R39) and the reset input (R44, `70_reset_and_hazards.md` R230). -/

namespace Sys2Proof.Proofs

open Sys2Proof.Machine Sys2Proof.Laws

/-- Outside the K and Q windows a read does not ask for BUSY (R64). -/
theorem windowRead_outside_kq {off : Nat} (h : inKQ off = false) (s : State) :
    windowRead off s = respond (readReg s (winReg off)) s := by simp [windowRead, h]

/-- Outside the K and Q windows a write does not ask for BUSY (R64). -/
theorem windowWrite_outside_kq {off : Nat} (h : inKQ off = false) (v : Word) (s : State) :
    windowWrite off v s = writeReg v s (winReg off) := by simp [windowWrite, h]

theorem bitAt_zero (b : Bool) : bitAt b 0 = if b then 1 else 0 := by cases b <;> rfl

/-- Settles O42: offset 0x004 is CTRL, whether or not a command is in flight. -/
theorem controlWriteSetsInterruptEnable : Obligations.ControlWriteSetsInterruptEnable := by
  intro s es
  have hkq : inKQ 0x004 = false := by decide
  refine ⟨fun h => ?_, fun v h => ⟨_, ?_, rfl, rfl⟩⟩
  · rw [step_read h (by decide) (by decide), windowRead_outside_kq hkq, ← bitAt_zero]
    rfl
  · rw [step_write h (by decide) (by decide), windowWrite_outside_kq hkq]
    rfl

/-- While reset is asserted an accepted read returns 0 (R230). -/
theorem hostAccess_read_in_reset {s : State} (hr : s.resetLine = true) {off : Nat} (h4 : off % 4 = 0) (hlt : off < 0x800) :
    hostAccess (.read 4 (s.base + off)) s = .next (respond 0 s) := by
  simp only [hostAccess, acceptedOffset_base s off h4 hlt, hr, if_true]

/-- While reset is asserted an accepted write has no effect (R230). -/
theorem hostAccess_write_in_reset {s : State} (hr : s.resetLine = true) {off : Nat} (h4 : off % 4 = 0) (hlt : off < 0x800)
    (v : Word) : hostAccess (.write 4 (s.base + off) v) s = .next s := by
  simp only [hostAccess, acceptedOffset_base s off h4 hlt, hr, if_true]

/-- Settles O48: an edge of the reset input is one input, and the held block answers accesses as R230 says. -/
theorem resetClearsTheBlockAndHoldsIt : Obligations.ResetClearsTheBlockAndHoldsIt := by
  intro s es
  refine ⟨step_assertReset, step_cons, fun hr off h4 hlt => ⟨fun he => ?_, fun v he => ?_⟩⟩
  · exact (step_cons he).trans (hostAccess_read_in_reset (s := { s with events := es }) hr h4 hlt)
  · exact (step_cons he).trans (hostAccess_write_in_reset (s := { s with events := es }) hr h4 hlt v)

end Sys2Proof.Proofs
end

section
/-! SUPPORT. Every point a command writes is on the curve (`10_state.md` R26, R29): no point of the curve has y = 0
(`42_point_arithmetic.md` R137), so a decompressed point has a coordinate below P for either parity. -/

namespace Sys2Proof.Proofs

open Sys2Proof.Machine Sys2Proof.Laws

/-! ### Decompression -/

/-- −7 is no cube modulo P: its power (P − 1) / 3 is not 1. -/
theorem powMod_neg_seven_ne_one : powMod curveP (curveP - 7) ((curveP - 1) / 3) ≠ 1 := by decide +kernel

theorem powMod_eq_one {m b e : Nat} (hm : 1 < m) (he : e < 2 ^ 256) (h : (b : ZMod m) ^ e = 1) : powMod m b e = 1 := by
  have hmod : b ^ e % m = 1 % m := (ZMod.natCast_eq_natCast_iff' ..).1 (by simpa using h)
  rw [powMod_eq _ _ _ he, hmod, Nat.mod_eq_of_lt hm]

/-- R137: x³ + 7 has no zero in the field, by Fermat. -/
theorem cube_add_seven_ne_zero (x : ZMod curveP) : x ^ 3 + 7 ≠ 0 := by
  have := Fact.mk curveP_prime
  intro h
  have hx : x ≠ 0 := by
    rintro rfl
    exact cast_ofNat_ne_zero (c := 7) (by decide) (by decide) (by simpa using h)
  have hcube : ((curveP - 7 : Nat) : ZMod curveP) = x ^ 3 := by
    rw [Nat.cast_sub (by decide), ZMod.natCast_self]
    push_cast
    linear_combination -h
  have hone : ((curveP - 7 : Nat) : ZMod curveP) ^ ((curveP - 1) / 3) = 1 := by
    rw [hcube, ← pow_mul, show 3 * ((curveP - 1) / 3) = curveP - 1 by decide]
    exact ZMod.pow_card_sub_one_eq_one hx
  exact powMod_neg_seven_ne_one (powMod_eq_one (by decide) (by decide) hone)

/-- R137: no affine point of the curve has y = 0. -/
theorem y_ne_zero_of_affineOnCurve {x y : Nat} (h : affineOnCurve x y = true) : y ≠ 0 := by
  rintro rfl
  obtain ⟨-, -, heq⟩ := (affineOnCurve_iff x 0).1 h
  exact cube_add_seven_ne_zero x (by simpa using heq.symm)

/-- R131: the negation of an affine point is on the curve. -/
theorem affineOnCurve_neg {x y : Nat} (h : affineOnCurve x y = true) : affineOnCurve x (curveP - y) = true := by
  have hy0 := y_ne_zero_of_affineOnCurve h
  obtain ⟨hx, hy, heq⟩ := (affineOnCurve_iff x y).1 h
  refine (affineOnCurve_iff x _).2 ⟨hx, by omega, ?_⟩
  rw [Nat.cast_sub hy.le, ZMod.natCast_self, zero_sub, neg_sq, heq]

theorem rootCandidate_lt (c : Nat) : rootCandidate c < curveP := by
  rw [rootCandidate, powMod_eq _ _ _ (by decide)]
  exact Nat.mod_lt _ curveP_pos

/-- R138: what decompression finds is a point of the curve. -/
theorem decompress_onCurve {x y : Nat} {f : Parity} (h : decompress x f = some y) : affineOnCurve x y = true := by
  unfold decompress at h
  split at h
  · cases h
  · next hx =>
    simp only at h
    split at h
    · next hroot =>
      have hon : affineOnCurve x (rootCandidate (curveRhs x)) = true := by
        simp [affineOnCurve, hroot, rootCandidate_lt, Nat.lt_of_not_le hx]
      cases h
      split
      · exact hon
      · exact affineOnCurve_neg hon
    · cases h

/-! ### The points written -/

/-- R20: G is a point of the curve. -/
theorem generator_onCurve : (Point.affine curveGX curveGY).onCurve = true := by decide

theorem readPt_onCurve {s : State} {a : QIdx} (h : sourceOnCurve s (.q a) = true) : (readPt s a).onCurve = true :=
  (pointReg_onCurve_eq _).symm.trans h

/-- A command with a Q destination, completing with NONE = 0, copies a register (MOVQ) or writes the canonical triple of a
point of the curve (R26, R29). -/
theorem update_of_sources_onCurve {i : Instr} {d : QIdx} {s : State} (hsrc : ∀ r ∈ sources i, sourceOnCurve s r = true)
    (hd : destQ i = some d) (hn : (completionOf i s).flagNone = false) :
    (∃ a, i = .movq d a) ∨ ∃ p : Point, p.onCurve = true ∧ (completionOf i s).update = .pointReg d (.ofPoint p) := by
  cases i with
  | nop | init | clr | ldn | movk | modinv | peq => cases hd
  | movq d' a =>
    cases hd
    exact .inl ⟨a, rfl⟩
  | ldg d' =>
    cases hd
    exact .inr ⟨_, generator_onCurve, rfl⟩
  | decomp d' a f =>
    cases hd
    cases hy : decompress (readK s a).toNat f with
    | none => simp [completionOf, hy] at hn
    | some y => exact .inr ⟨.affine (readK s a).toNat y, decompress_onCurve hy, by simp [completionOf, hy, Completion.point]⟩
  | padd d' a b =>
    cases hd
    have ha := readPt_onCurve (hsrc (.q a) (by simp [sources]))
    have hb := readPt_onCurve (hsrc (.q b) (by simp [sources]))
    exact .inr ⟨_, ecAdd_onCurve ha hb, rfl⟩
  | pdbl d' a =>
    cases hd
    have ha := readPt_onCurve (hsrc (.q a) (by simp [sources]))
    exact .inr ⟨_, ecAdd_onCurve ha ha, rfl⟩
  | smul d' a b =>
    cases hd
    have hb := readPt_onCurve (hsrc (.q b) (by simp [sources]))
    exact .inr ⟨_, ecMul_onCurve hb (readK s a).isLt, rfl⟩
  | dsmul d' a b c e =>
    cases hd
    have hb := readPt_onCurve (hsrc (.q b) (by simp [sources]))
    have he := readPt_onCurve (hsrc (.q e) (by simp [sources]))
    exact .inr ⟨_, ecAdd_onCurve (ecMul_onCurve hb (readK s a).isLt) (ecMul_onCurve he (readK s c).isLt), rfl⟩

/-- R26: the canonical triple of a point of the curve. -/
theorem ofPoint_canonical {p : Point} (h : p.onCurve = true) :
    ((PointReg.ofPoint p).inf = true → PointReg.ofPoint p = ⟨true, 0, 0⟩) ∧
      ((PointReg.ofPoint p).inf = false →
        (PointReg.ofPoint p).x.toNat < curveP ∧ (PointReg.ofPoint p).y.toNat < curveP) := by
  cases p with
  | infinity => exact ⟨fun _ => rfl, nofun⟩
  | affine x y =>
    obtain ⟨hx, hy, -⟩ := (affineOnCurve_iff x y).1 h
    exact ⟨nofun, fun _ => ⟨(Nat.mod_le ..).trans_lt hx, (Nat.mod_le ..).trans_lt hy⟩⟩

theorem qv_apply {c : Completion} {d : QIdx} {r : PointReg} (h : c.update = .pointReg d r) (s : State) :
    (c.apply s).qv[d] = true := by
  change (c.update.apply s).qv[d] = true
  simp [h, Update.apply]

/-- Settles O31: the triple written is a source register (MOVQ) or a canonical one. -/
theorem commandsWriteCurvePoints : Obligations.CommandsWriteCurvePoints := by
  intro i d s t hsrc hd h hn
  obtain rfl := eq_apply_of_exec h
  rcases update_of_sources_onCurve hsrc hd hn with ⟨a, rfl⟩ | ⟨p, hp, hu⟩
  · have hu : (completionOf (.movq d a) s).update = .pointReg d (readQ s a) := rfl
    have ha : (readQ s a).onCurve = true := hsrc (.q a) (by simp [sources])
    rw [readQ_apply hu]
    exact ⟨ha, qv_apply hu s, fun hne => absurd rfl (hne d a)⟩
  · rw [readQ_apply hu]
    exact ⟨ofPoint_onCurve hp, qv_apply hu s, fun _ => ofPoint_canonical hp⟩

end Sys2Proof.Proofs
end

section
/-! SUPPORT. The rules of one access to the register window (`20_memory.md` R51 to R65): which accesses R65 leaves to the
register map, what a step then does, and the words STATUS and VALID read. -/

namespace Sys2Proof.Proofs

open Sys2Proof.Machine Sys2Proof.Laws

/-! ### The words of a 256-bit value -/

theorem wordOf_toNat (v : U256) (j : Fin 8) : (wordOf v j).toNat = v.toNat / 2 ^ (224 - 32 * j.val) % 2 ^ 32 := by
  rw [wordOf, BitVec.extractLsb'_toNat, Nat.shiftRight_eq_div_pow]

/-- The low k + 32 bits are the word at bit k over the low k bits. -/
theorem mod_two_pow_add_word (x k : Nat) : x % 2 ^ (k + 32) = x / 2 ^ k % 2 ^ 32 * 2 ^ k + x % 2 ^ k := by
  rw [pow_add, Nat.mod_mul, Nat.mul_comm, Nat.add_comm]

/-- Settles O34: a word is taken off the top seven times, and the last one is left. -/
theorem valuesAreBigEndianWords : Obligations.ValuesAreBigEndianWords := by
  refine fun v => ⟨wordOf_toNat v, ?_⟩
  have htop : v.toNat = v.toNat % 2 ^ (224 + 32) := (Nat.mod_eq_of_lt v.isLt).symm
  rw [mod_two_pow_add_word _ 224, mod_two_pow_add_word _ 192, mod_two_pow_add_word _ 160, mod_two_pow_add_word _ 128,
    mod_two_pow_add_word _ 96, mod_two_pow_add_word _ 64, mod_two_pow_add_word _ 32] at htop
  simp only [wordOf_toNat]
  simpa [Nat.add_assoc] using htop

/-! ### Accesses the register map answers -/

/-- An accepted offset that R65 does not govern: the block is idle, or the offset is outside the K and Q windows. -/
structure Served (s : State) (off : Nat) : Prop where
  aligned : off % 4 = 0
  lt : off < 0x800
  free : s.inflight = none ∨ off < 0x100 ∨ 0x600 ≤ off

theorem served_of_outside_kq (s : State) {off : Nat} (h : off % 4 = 0 ∧ (off < 0x100 ∨ 0x600 ≤ off ∧ off < 0x800)) :
    Served s off := ⟨by omega, by omega, .inr (by omega)⟩

theorem inKQ_eq_true_iff (off : Nat) : inKQ off = true ↔ 0x100 ≤ off ∧ off < 0x600 := by
  simp [inKQ]

theorem Served.busy_and_inKQ {s : State} {off : Nat} (h : Served s off) : (s.busy && inKQ off) = false := by
  rcases h.free with hi | hout
  · simp [State.busy, hi]
  · have hkq : inKQ off = false := by
      rw [← Bool.not_eq_true, inKQ_eq_true_iff]
      omega
    rw [hkq, Bool.and_false]

/-- The inputs still to arrive are no register (R7). -/
theorem readReg_consume (s : State) (es : List Event) (r : WinReg) : readReg { s with events := es } r = readReg s r := by
  cases r <;> rfl

/-- A read of a word that R65 does not govern returns what its register holds, and changes nothing (R52, R63). -/
theorem step_readReg {s : State} {off : Nat} {r : WinReg} {es : List Event} (hs : Served s off) (hr : winReg off = r)
    (h : ReceivesRead s off es) :
    step s = .next { s with events := es, returned := s.returned ++ [readReg s r] } := by
  have hfree : (State.busy { s with events := es } && inKQ off) = false := hs.busy_and_inKQ
  rw [step_read h hs.aligned hs.lt, windowRead, hfree, hr, readReg_consume]
  rfl

/-- A write of a word that R65 does not govern is its register's (R52). -/
theorem step_writeReg {s : State} {off : Nat} {r : WinReg} {v : Word} {es : List Event} (hs : Served s off)
    (hr : winReg off = r) (h : ReceivesWrite s off v es) :
    step s = .next (writeReg v { s with events := es } r) := by
  have hfree : (State.busy { s with events := es } && inKQ off) = false := hs.busy_and_inKQ
  rw [step_write h hs.aligned hs.lt, windowWrite, hfree, hr]
  rfl

/-! ### The K and Q windows -/

/-- Settles O35: the word's offset names word j of K_i, and `setWord` replaces that word alone. -/
theorem integerWindowReadsAndWritesOneWord : Obligations.IntegerWindowReadsAndWritesOneWord := by
  intro s i j es hi
  have hs : Served s (0x100 + 0x20 * i.val + 4 * j.val) := ⟨by omega, by omega, .inl hi⟩
  have hreg := winReg_kWord i j
  exact ⟨step_readReg hs hreg, fun v h =>
    ⟨setWord s.k[i] j v, wordOf_setWord_same .., fun _ => wordOf_setWord_ne _ _, step_writeReg hs hreg h⟩⟩

/-- Settles O37: each offset of Q_i's slot names a word of X, a word of Y, INF, or a RAZ/WI word. -/
theorem pointWindowReadsAndWritesOneWord : Obligations.PointWindowReadsAndWritesOneWord := by
  intro s i es hi
  have hinf : Served s (0x240 + 0x80 * i.val) := ⟨by omega, by omega, .inl hi⟩
  refine ⟨fun j => ?_, fun h => ?_, fun v h => step_writeReg hinf (winReg_qinf i) h, fun m hm => ?_⟩
  · have hx : Served s (0x200 + 0x80 * i.val + 4 * j.val) := ⟨by omega, by omega, .inl hi⟩
    have hy : Served s (0x220 + 0x80 * i.val + 4 * j.val) := ⟨by omega, by omega, .inl hi⟩
    exact ⟨step_readReg hx (winReg_qx i j), step_readReg hy (winReg_qy i j),
      fun v h => ⟨setWord s.q[i].x j v, wordOf_setWord_same .., fun _ => wordOf_setWord_ne _ _,
        step_writeReg hx (winReg_qx i j) h⟩,
      fun v h => ⟨setWord s.q[i].y j v, wordOf_setWord_same .., fun _ => wordOf_setWord_ne _ _,
        step_writeReg hy (winReg_qy i j) h⟩⟩
  · rw [step_readReg hinf (winReg_qinf i) h, ← bitAt_zero]
    rfl
  · have hpad : Served s (0x244 + 0x80 * i.val + 4 * m) := ⟨by omega, by omega, .inl hi⟩
    have hreg : winReg (0x244 + 0x80 * i.val + 4 * m) = .qpad i := winReg_qpad i ⟨m, hm⟩
    exact ⟨step_readReg hpad hreg, fun v => step_writeReg hpad hreg⟩

/-- Settles O46: R65 governs the offset, so the next free value answers. -/
theorem busyWindowReadReturnsAFreeValue : Obligations.BusyWindowReadReturnsAFreeValue := by
  intro s w off es hw h4 hlo hhi h
  have hbusy : State.busy { s with events := es } = true := by simp [State.busy, hw]
  rw [step_read h h4 (by omega), windowRead, hbusy, (inKQ_eq_true_iff off).2 ⟨hlo, hhi⟩]
  rfl

/-! ### The parameter window, the read-only registers and the reserved offsets -/

theorem param_offset_bounds (c : Param) : c.offset % 4 = 0 ∧ 0x600 ≤ c.offset ∧ c.offset ≤ 0x6C0 := by
  cases c <;> decide

theorem winReg_param_offset (c : Param) (j : Fin 8) : winReg (c.offset + 4 * j.val) = .param c j := by
  obtain ⟨hp, hn, hgx, hgy, ha, hb, hh⟩ := winReg_param j
  cases c <;> assumption

/-- Settles O38: the parameter window is outside the K and Q windows, and its entries are constants. -/
theorem parameterWindowIsConstant : Obligations.ParameterWindowIsConstant := by
  intro s c j es
  obtain ⟨h4, hlo, hhi⟩ := param_offset_bounds c
  have hs : Served s (c.offset + 4 * j.val) := served_of_outside_kq s (by omega)
  exact ⟨step_readReg hs (winReg_param_offset c j), fun v => step_writeReg hs (winReg_param_offset c j),
    by decide, rfl, rfl, rfl, rfl, rfl, rfl⟩

/-- Settles O39: the registers below 0x100 are outside the K and Q windows, so BUSY does not matter. -/
theorem readOnlyRegistersIgnoreWrites : Obligations.ReadOnlyRegistersIgnoreWrites := by
  intro s es
  have hid : Served s 0x000 := served_of_outside_kq s (by decide)
  have hcmd : Served s 0x00C := served_of_outside_kq s (by decide)
  have herrcmd : Served s 0x014 := served_of_outside_kq s (by decide)
  have hlastcmd : Served s 0x018 := served_of_outside_kq s (by decide)
  refine ⟨step_readReg (r := .id) hid rfl, step_readReg (r := .cmd) hcmd rfl, step_readReg (r := .errcmd) herrcmd rfl,
    step_readReg (r := .lastcmd) hlastcmd rfl, fun v off hoff => ?_⟩
  rcases hoff with rfl | rfl | rfl
  · exact step_writeReg (r := .id) hid rfl
  · exact step_writeReg (r := .errcmd) herrcmd rfl
  · exact step_writeReg (r := .lastcmd) hlastcmd rfl

/-- The two reserved ranges of R52. -/
theorem winReg_reserved {off : Nat} (h : 0x01C ≤ off ∧ off ≤ 0x0FF ∨ 0x6E0 ≤ off ∧ off ≤ 0x7FF) :
    winReg off = .reserved := by
  rcases h with ⟨hlo, hhi⟩ | ⟨hlo, hhi⟩
  · simp (disch := omega) only [winReg, if_neg, if_pos]
  · simp (disch := omega) only [winReg, paramReg, if_neg]

/-- Settles O43: both ranges are RAZ/WI and outside the K and Q windows. -/
theorem reservedOffsetsReadZeroAndIgnoreWrites : Obligations.ReservedOffsetsReadZeroAndIgnoreWrites := by
  intro s off es h4 hrange
  have hs : Served s off := served_of_outside_kq s (by omega)
  exact ⟨step_readReg hs (winReg_reserved hrange), fun v => step_writeReg hs (winReg_reserved hrange)⟩

/-! ### STATUS and VALID -/

theorem flagBits_toNat : ∀ r q i n d b : Bool,
    (bitAt r 5 ||| (bitAt q 4 ||| (bitAt i 3 ||| (bitAt n 2 ||| (bitAt d 1 ||| bitAt b 0))))).toNat =
      r.toNat * 2 ^ 5 + q.toNat * 2 ^ 4 + i.toNat * 2 ^ 3 + n.toNat * 2 ^ 2 + d.toNat * 2 + b.toNat := by decide

/-- R190: no code needs more than three bits. -/
theorem code_lt (e : ErrCode) : e.code < 8 := by
  cases e <;> decide

/-- The fields of a STATUS word do not overlap (R52). -/
theorem statusWord_toNat (s : State) : (statusWord s).toNat =
    s.err.code * 2 ^ 8 + s.ready.toNat * 2 ^ 5 + s.flagEq.toNat * 2 ^ 4 + s.flagInf.toNat * 2 ^ 3 +
      s.flagNone.toNat * 2 ^ 2 + s.done.toNat * 2 + s.busy.toNat := by
  have hcode := code_lt s.err
  have herr : (BitVec.ofNat 32 s.err.code <<< 8).toNat = s.err.code <<< 8 := by
    rw [BitVec.toNat_shiftLeft, BitVec.toNat_ofNat, Nat.mod_eq_of_lt (by omega), Nat.mod_eq_of_lt (by omega)]
  have hready := s.ready.toNat_le
  have heq := s.flagEq.toNat_le
  have hinf := s.flagInf.toNat_le
  have hnone := s.flagNone.toNat_le
  have hdone := s.done.toNat_le
  have hbusy := s.busy.toNat_le
  simp only [statusWord, BitVec.or_assoc]
  rw [BitVec.toNat_or, herr, flagBits_toNat, ← Nat.shiftLeft_add_eq_or_of_lt (by omega), Nat.shiftLeft_eq]
  omega

/-- A STATUS write touches DONE and ERR alone (R52, R198). -/
theorem writeStatus_eq (v : Word) (s : State) : writeStatus v s =
    { s with done := if v.getLsbD 1 then false else s.done, err := if v.getLsbD 31 then .noError else s.err } := by
  unfold writeStatus
  cases v.getLsbD 1 <;> cases v.getLsbD 31 <;> rfl

/-- Settles O40: offset 0x008 is STATUS, whether or not a command is in flight. -/
theorem statusReadsFieldsAndClearsByOnes : Obligations.StatusReadsFieldsAndClearsByOnes := by
  refine ⟨by decide, fun s es => ?_⟩
  have hs : Served s 0x008 := served_of_outside_kq s (by decide)
  refine ⟨fun h => ⟨statusWord s, step_readReg (r := .status) hs rfl h, statusWord_toNat s⟩, fun v h => ?_⟩
  exact (step_writeReg (r := .status) hs rfl h).trans (congrArg _ (writeStatus_eq ..))

theorem getLsbD_bitAt (b : Bool) (i n : Nat) : (bitAt b i).getLsbD n = (decide (n < 32) && decide (n = i) && b) := by
  rcases lt_trichotomy n i with h | rfl | h
  · simp [bitAt, h, h.ne]
  · simp [bitAt]
  · simp [bitAt, h.ne', Nat.sub_ne_zero_of_lt h]

theorem getLsbD_tagBits (t : Vector Bool 8) (i : Fin 8) : (tagBits t).getLsbD i.val = t[i] := by
  simp only [tagBits, BitVec.getLsbD_or, getLsbD_bitAt]
  fin_cases i <;> simp

theorem getLsbD_tagBits_of_ge (t : Vector Bool 8) {n : Nat} (h : 8 ≤ n) : (tagBits t).getLsbD n = false := by
  have hne : ∀ i < 8, n ≠ i := fun i hi => by omega
  simp [tagBits, getLsbD_bitAt, hne]

/-- The K tags stand below bit 8 and the Q tags from bit 8 on (R55). -/
theorem getLsbD_validWord (s : State) {n : Nat} (h : n < 32) :
    (validWord s).getLsbD n = if n < 8 then (tagBits s.kv).getLsbD n else (tagBits s.qv).getLsbD (n - 8) := by
  rw [validWord, BitVec.getLsbD_or, BitVec.getLsbD_shiftLeft]
  by_cases hlo : n < 8
  · simp [hlo]
  · rw [getLsbD_tagBits_of_ge s.kv (Nat.not_lt.1 hlo), if_neg hlo]
    simp [hlo, h]

/-- Settles O41: the two files of tags fill bits 7:0 and 15:8. -/
theorem validReadsTheTags : Obligations.ValidReadsTheTags := by
  intro s es
  have hs : Served s 0x010 := served_of_outside_kq s (by decide)
  refine ⟨fun h => ⟨validWord s, step_readReg (r := .valid) hs rfl h, fun i => ⟨?_, ?_⟩, fun b hb => ?_⟩,
    fun v => step_writeReg (r := .valid) hs rfl⟩
  · rw [getLsbD_validWord s (by omega), if_pos i.isLt, getLsbD_tagBits]
  · rw [getLsbD_validWord s (by omega), if_neg (by omega), Nat.add_sub_cancel_left, getLsbD_tagBits]
  · by_cases hlt : b < 32
    · rw [getLsbD_validWord s hlt, if_neg (by omega), getLsbD_tagBits_of_ge _ (by omega)]
    · exact BitVec.getLsbD_of_ge _ _ (Nat.not_lt.1 hlt)

/-! ### Refused accesses, and what an access leaves unchanged -/

/-- Settles O44: an access is a fault exactly when its offset is not accepted. -/
theorem otherAccessesAreBusErrors : Obligations.OtherAccessesAreBusErrors := by
  intro s bytes addr v es h
  refine ⟨fun hbad => ?_, fun hok => ?_⟩
  · have hoff : acceptedOffset { s with events := es } bytes addr = none := if_neg hbad
    rcases h with h | h <;> simp only [step_cons h, deliver, hostAccess, hoff]
  · have hoff : acceptedOffset { s with events := es } bytes addr = some (addr - s.base) := if_pos hok
    rcases h with h | h <;> simp [step_cons h, deliver, hostAccess, hoff]

/-- Settles O45: held in reset a read returns 0; otherwise its register's word, or a free value where R65 governs. -/
theorem readsChangeNothing : Obligations.ReadsChangeNothing := by
  intro s off es h4 hlt h
  by_cases hr : s.resetLine = true
  · obtain ⟨-, -, hheld⟩ := resetClearsTheBlockAndHoldsIt s es
    obtain ⟨hread, -⟩ := hheld hr off h4 hlt
    exact ⟨0, s.draws, hread h, fun _ => rfl⟩
  · have hreads : ReceivesRead s off es := ⟨h, Bool.not_eq_true _ ▸ hr⟩
    by_cases hfree : s.inflight = none ∨ off < 0x100 ∨ 0x600 ≤ off
    · exact ⟨_, s.draws, step_readReg ⟨h4, hlt, hfree⟩ rfl hreads, fun _ => rfl⟩
    · obtain ⟨hw, hkq⟩ := not_or.1 hfree
      obtain ⟨w, hw⟩ := Option.ne_none_iff_exists'.1 hw
      exact ⟨_, _, busyWindowReadReturnsAFreeValue s w off es hw h4 (by omega) (by omega) hreads,
        fun hfree' => absurd hfree' hfree⟩

/-- Settles O56: an access while BUSY = 1 returns data, or records OVERRUN, or writes CTRL or STATUS. -/
theorem operandsAreFixedWhileBusy : Obligations.OperandsAreFixedWhileBusy := by
  intro s t w a es hw he h
  rw [step_cons he] at h
  obtain ⟨hk, hkv, hq, hqv, hn, hf, heq, hr, hl, hi, -, -⟩ := (effect_of_hostAccess h).busy_frame hw
  exact ⟨hk, hkv, hq, hqv, hn, hf, heq, hr, hl, hi.trans hw⟩

end Sys2Proof.Proofs
end

section
/-! SUPPORT. The decoder, its inverse and the assembler (`30_encoding.md` R82 to R91): the opcode map and the formats name
the same opcodes, the outcome of decoding follows from the fields, and a decoded word is the word of its command. -/

namespace Sys2Proof.Proofs

open Sys2Proof.Machine Sys2Proof.Laws

/-- Settles O1: the row of R84 of each command builds it from its own word's fields. -/
theorem decodeOfEncodeIsTheCommand : Obligations.DecodeOfEncodeIsTheCommand := decode_encode

/-! ### The outcomes of decoding -/

@[simp] theorem fieldsOf_opc (w : Word) : (fieldsOf w).opc = opcOf w := rfl

/-- R84 and R82 speak of the same opcodes. -/
theorem lookupOp_eq_none_iff (o : BitVec 8) : lookupOp o = none ↔ formatOf o = none := by
  simp only [lookupOp, formatOf, ite_eq_iff, reduceCtorEq, and_false, false_or, and_true, not_or]
  tauto

/-- Everything the decoder can answer, by the opcode's format and the other fields (R86). -/
theorem decode_cases (w : Word) :
    (formatOf (opcOf w) = none ∧ decode w = .illegal) ∨
    ∃ op fmt, lookupOp (opcOf w) = some op ∧ formatOf (opcOf w) = some fmt ∧
      (((fieldsOf w).respects fmt = false ∧ decode w = .reserved) ∨
        ((fieldsOf w).respects fmt = true ∧ decode w = .cmd (op.build w))) := by
  cases ho : lookupOp (opcOf w) with
  | none => exact .inl ⟨(lookupOp_eq_none_iff _).1 ho, by simp only [decode, ho]⟩
  | some op =>
    obtain ⟨fmt, hf⟩ : ∃ fmt, formatOf (opcOf w) = some fmt :=
      Option.ne_none_iff_exists'.1 fun hn => nomatch ho.symm.trans ((lookupOp_eq_none_iff _).2 hn)
    refine .inr ⟨op, fmt, rfl, hf, ?_⟩
    cases hr : (fieldsOf w).respects fmt <;> simp [decode, ho, and_mask_eq_pattern_iff ho hf, hr]

theorem decode_eq_illegal_iff (w : Word) : decode w = .illegal ↔ formatOf (opcOf w) = none := by
  obtain ⟨hf, hd⟩ | ⟨_, fmt, -, hf, ⟨-, hd⟩ | ⟨-, hd⟩⟩ := decode_cases w <;> simp [hf, hd]

theorem decode_eq_reserved_iff (w : Word) : decode w = .reserved ↔
    ∃ fmt, formatOf (opcOf w) = some fmt ∧ (fieldsOf w).respects fmt = false := by
  obtain ⟨hf, hd⟩ | ⟨_, fmt, -, hf, ⟨hr, hd⟩ | ⟨hr, hd⟩⟩ := decode_cases w
  · simp [hf, hd]
  · simp [hf, hd, hr]
  · simp [hf, hd, hr]

theorem exists_decode_eq_cmd_iff (w : Word) : (∃ i, decode w = .cmd i) ↔ (fieldsOf w).wellFormed = true := by
  obtain ⟨hf, hd⟩ | ⟨_, fmt, -, hf, ⟨hr, hd⟩ | ⟨hr, hd⟩⟩ := decode_cases w
  · simp [Fields.wellFormed, hf, hd]
  · simp [Fields.wellFormed, hf, hd, hr]
  · simp [Fields.wellFormed, hf, hd, hr]

/-- Settles O3: each outcome is one case of the opcode's format and the fields it leaves unused. -/
theorem decodeOutcomeFollowsTheFields : Obligations.DecodeOutcomeFollowsTheFields := fun w =>
  ⟨decode_eq_illegal_iff w, decode_eq_reserved_iff w, exists_decode_eq_cmd_iff w⟩

/-- Settles O4: each word is decoded. -/
theorem workedWordsDecode : Obligations.WorkedWordsDecode := by
  unfold Obligations.WorkedWordsDecode
  decide

/-! ### A decoded word is the word of its command -/

theorem HoldsFields.unique {w v : Word} {opc : BitVec 8} {d a b c e : Fin 8} {f : BitVec 1}
    (hw : HoldsFields w opc d a b c e f) (hv : HoldsFields v opc d a b c e f) : w = v :=
  word_eq_of_fieldsOf (hw.trans hv.symm)

theorem fieldsOf_f (w : Word) : (fieldsOf w).f = BitVec.ofBool (w.getLsbD 8) := by
  simp [fieldsOf, BitVec.eq_of_getLsbD_eq_iff]

/-- The test of R88 on one register field: it is the register read, or 0 where it is not used. -/
theorem eq_ofFin_of_used_or_zero {used : Bool} {x : BitVec 3} (h : (used || x == 0) = true) :
    x = .ofFin (if used then x.toFin else 0) := by
  cases used
  · simpa using h
  · rfl

/-- R88: the fields a word's format does not use, and RSV, are 0. -/
theorem holdsFields_of_respects {w : Word} {fmt : Format} (h : (fieldsOf w).respects fmt = true) :
    HoldsFields w (opcOf w) (if fmt.usesD then fieldD w else 0) (if fmt.usesA then fieldA w else 0)
      (if fmt.usesB then fieldB w else 0) (if fmt.usesCE then fieldC w else 0) (if fmt.usesCE then fieldE w else 0)
      (if fmt.usesF then BitVec.ofBool (w.getLsbD 8) else 0) := by
  simp only [Fields.respects, Bool.and_eq_true, beq_iff_eq] at h
  obtain ⟨⟨⟨⟨⟨⟨hrsv, hd⟩, ha⟩, hb⟩, hc⟩, he⟩, hf⟩ := h
  have hflag : (fieldsOf w).f = if fmt.usesF then BitVec.ofBool (w.getLsbD 8) else 0 := by
    cases hu : fmt.usesF
    · simpa [hu] using hf
    · exact fieldsOf_f w
  simp only [HoldsFields, fieldsOf, Fields.mk.injEq]
  exact ⟨rfl, eq_ofFin_of_used_or_zero hd, eq_ofFin_of_used_or_zero ha, eq_ofFin_of_used_or_zero hb,
    eq_ofFin_of_used_or_zero hc, eq_ofFin_of_used_or_zero he, hflag, hrsv⟩

/-- The opcode of a row of R84 is the one its `match` column holds. -/
theorem opcOf_pattern {o : BitVec 8} {op : Op} {fmt : Format} (ho : lookupOp o = some op)
    (hf : formatOf o = some fmt) : opcOf op.pattern = o :=
  congrArg Fields.opc (maskRow_of_lookup ho hf).1

/-- MODINV and DECOMP give back the F bit that their operand was read from (R83). -/
theorem modulusBit_fieldModulus (w : Word) : modulusBit (fieldModulus w) = if w.getLsbD 8 then 0x100 else 0 := by
  unfold fieldModulus
  cases w.getLsbD 8 <;> rfl

theorem parityField_fieldParity (w : Word) : parityField (fieldParity w) = if w.getLsbD 8 then 0x100 else 0 := by
  unfold fieldParity
  cases w.getLsbD 8 <;> rfl

theorem holdsFields_enc_flag (opc : BitVec 8) (d a b c e : Fin 8) (f : Bool) :
    HoldsFields (enc opc d a b c e ||| if f then 0x100 else 0) opc d a b c e (BitVec.ofBool f) := by
  cases f
  · exact holdsFields_enc_or_zero ..
  · exact holdsFields_enc_f ..

/-- R85: encoding what the row of an opcode builds from a word gives back the word's fields. -/
theorem encode_build {w : Word} {op : Op} {fmt : Format} (ho : lookupOp (opcOf w) = some op)
    (hf : formatOf (opcOf w) = some fmt) (hr : (fieldsOf w).respects fmt = true) : encode (op.build w) = w := by
  have hw := holdsFields_of_respects hr
  have hopc := opcOf_pattern ho hf
  rw [← hopc] at hf hw
  cases op with
  | modinv =>
    obtain rfl : Format.daf = fmt := Option.some.inj hf
    rw [Op.build, encode, modulusBit_fieldModulus]
    exact (holdsFields_enc_flag ..).unique hw
  | decomp =>
    obtain rfl : Format.daf = fmt := Option.some.inj hf
    rw [Op.build, encode, parityField_fieldParity]
    exact (holdsFields_enc_flag ..).unique hw
  | _ =>
    cases Option.some.inj hf
    exact (holdsFields_enc ..).unique hw

/-- Settles O2: a word that decodes respects its format, so its command's fields are all it holds. -/
theorem encodeOfDecodedWordIsTheWord : Obligations.EncodeOfDecodedWordIsTheWord := by
  intro w i h
  obtain ⟨-, hd⟩ | ⟨op, fmt, ho, hf, ⟨-, hd⟩ | ⟨hr, hd⟩⟩ := decode_cases w
  · cases h.symm.trans hd
  · cases h.symm.trans hd
  · cases h.symm.trans hd
    exact encode_build ho hf hr

/-! ### Words that are no command -/

/-- The list of R87 is what R84 leaves out. -/
theorem formatOf_eq_none_iff : ∀ o : BitVec 8, formatOf o = none ↔ illegalOpc o.toNat = true := by decide +kernel

/-- Settles O7: an opcode without a format decodes to Illegal, which is the first check. -/
theorem illegalOpcodeRaisesIllop : Obligations.IllegalOpcodeRaisesIllop := by
  have hiff : ∀ w, decode w = .illegal ↔ illegalOpc (opcOf w).toNat = true := fun w =>
    (decode_eq_illegal_iff w).trans (formatOf_eq_none_iff _)
  refine ⟨hiff, by decide +kernel, fun s w es h hidle hopc => ?_⟩
  have hc : checks w s = .illop := by simp only [checks, (hiff w).2 hopc]
  exact step_rejects h hidle hc nofun

/-- Settles O8: the fields decide that the word decodes to Reserved, which is the second check. -/
theorem nonzeroReservedFieldRaisesRsvd : Obligations.NonzeroReservedFieldRaisesRsvd := by
  intro s w es fmt h hidle hf hr
  have hc : checks w s = .rsvd := by simp only [checks, (decode_eq_reserved_iff w).2 ⟨fmt, hf, hr⟩]
  exact step_rejects h hidle hc nofun

/-! ### The assembler -/

theorem map_kind_eq_k {l : List Operand} {ks : List OperandKind} : l.map Operand.kind = .k :: ks ↔
    ∃ i l', l = .k i :: l' ∧ l'.map Operand.kind = ks := by
  rcases l with - | ⟨⟨⟩, l⟩ <;> simp [Operand.kind]

theorem map_kind_eq_q {l : List Operand} {ks : List OperandKind} : l.map Operand.kind = .q :: ks ↔
    ∃ i l', l = .q i :: l' ∧ l'.map Operand.kind = ks := by
  rcases l with - | ⟨⟨⟩, l⟩ <;> simp [Operand.kind]

theorem map_kind_eq_modulus {l : List Operand} {ks : List OperandKind} : l.map Operand.kind = .modulus :: ks ↔
    ∃ m l', l = .modulus m :: l' ∧ l'.map Operand.kind = ks := by
  rcases l with - | ⟨⟨⟩, l⟩ <;> simp [Operand.kind]

theorem map_kind_eq_parity {l : List Operand} {ks : List OperandKind} : l.map Operand.kind = .parity :: ks ↔
    ∃ f l', l = .parity f :: l' ∧ l'.map Operand.kind = ks := by
  rcases l with - | ⟨⟨⟩, l⟩ <;> simp [Operand.kind]

/-- Each line of the assembler has the operands its mnemonic takes. -/
theorem wellFormed_of_isSome_assemble {l : AsmLine} (h : (assemble l).isSome = true) : l.wellFormed = true := by
  unfold assemble at h
  split at h
  case h_20 => cases h
  all_goals
    simp only [AsmLine.wellFormed, *]
    rfl

/-- R90: operands of the kinds a mnemonic takes are the ones its line of the assembler matches. -/
theorem isSome_assemble_of_wellFormed {l : AsmLine} (h : l.wellFormed = true) : (assemble l).isSome = true := by
  obtain ⟨m, ops⟩ := l
  cases m <;> simp only [AsmLine.wellFormed, Mnemonic.kinds, beq_iff_eq, map_kind_eq_k, map_kind_eq_q,
    map_kind_eq_modulus, map_kind_eq_parity, List.map_eq_nil_iff] at h
  case nop | init | clr =>
    obtain rfl := h
    rfl
  case ldg | ldn =>
    obtain ⟨d, _, rfl, rfl⟩ := h
    rfl
  case movk | movq | pdbl | peq | invn | invp | dece | deco =>
    obtain ⟨d, _, rfl, a, _, rfl, rfl⟩ := h
    rfl
  case modinv | decomp | padd | smul | subgrp =>
    obtain ⟨d, _, rfl, a, _, rfl, b, _, rfl, rfl⟩ := h
    rfl
  case dsmul =>
    obtain ⟨d, _, rfl, a, _, rfl, b, _, rfl, c, _, rfl, e, _, rfl, rfl⟩ := h
    rfl

/-- Settles O5: a line matches exactly when its operands fit, and each line of the assembler is the one R90 or R91 lists. -/
theorem assemblyFollowsTheOperandKinds : Obligations.AssemblyFollowsTheOperandKinds := by
  refine ⟨fun l => Bool.eq_iff_iff.2 ⟨wellFormed_of_isSome_assemble, isSome_assemble_of_wellFormed⟩, ?_⟩
  and_intros <;> intros <;> rfl

end Sys2Proof.Proofs
end

section
/-! SUPPORT. The curve-parameter commands (`40_parameters.md` R100 to R107): what LDG and LDN write is read off the
completion of one result, and a command with no source registers, such as INIT, completes a second time in the state it
left. -/

namespace Sys2Proof.Proofs

open Sys2Proof.Machine Sys2Proof.Laws

/-- Settles O17: the completion of one point result and of one integer result, at the values of R20. -/
theorem loadsWriteTheConstants : Obligations.LoadsWriteTheConstants := fun s dq dk =>
  ⟨congrArg Host.Outcome.next (finishPoint_eq dq (.affine curveGX curveGY) s),
    congrArg Host.Outcome.next (finishInt_eq dk (BitVec.ofNat 256 curveN) s)⟩

/-- A result applied twice: every write of R197 overwrites its own earlier one. -/
theorem Completion.apply_apply (c : Completion) (s : State) : c.apply (c.apply s) = c.apply s := by
  obtain ⟨u, n, f, e⟩ := c
  cases u with
  | keep | raiseReady | clear => rfl
  | intReg d v => simp [Completion.apply, Update.apply, complete, setFlags, writeK]
  | pointReg d r => simp [Completion.apply, Update.apply, complete, setFlags, writeQ]

/-- R8: with no sources the result is the same in every state, so the command's own effect does not change it. -/
theorem exec_idempotent_of_no_sources {i : Instr} {s t : State} (hi : sources i = []) (h : exec i s = .next t) :
    exec i t = .next t := by
  obtain rfl := eq_apply_of_exec h
  have hc : completionOf i ((completionOf i s).apply s) = completionOf i s := completionOf_congr (by simp [hi])
  rw [exec_eq_completionOf, hc, Completion.apply_apply]

/-- Settles O30: INIT has no source registers, and its result raises READY. -/
theorem initIsIdempotent : Obligations.InitIsIdempotent := fun s =>
  have hinit : exec .init s = .next ((completionOf .init s).apply s) := exec_eq_completionOf .init s
  ⟨_, hinit, exec_idempotent_of_no_sources rfl hinit, rfl⟩

end Sys2Proof.Proofs
end

section
/-! SUPPORT. Rejection of MODINV (`41_modinv.md` R120, R121): the inverse check is the last one of `60_exceptions.md` R192,
and it speaks only of a command that passes the checks before it. -/

namespace Sys2Proof.Proofs

open Sys2Proof.Machine Sys2Proof.Laws

theorem cmdChecks_eq_noinv {i : Instr} {s : State} (hr : s.ready = true) (ht : ∀ r ∈ sources i, tagOf s r = true)
    (hc : ∀ r ∈ sources i, sourceOnCurve s r = true) (hinv : lacksInverse s i = true) : cmdChecks i s = .noinv := by
  have htags : ((sources i).any fun r => !tagOf s r) = false := by simpa using ht
  have hcurve : ((sources i).any fun r => !sourceOnCurve s r) = false := by simpa using hc
  simp [cmdChecks, hr, htags, hcurve, hinv]

/-- R120: K[a] is the only source of MODINV, and it is no point. -/
theorem cmdChecks_modinv_of_zero {s : State} {a : KIdx} {m : Modulus} (d : KIdx) (hr : s.ready = true)
    (hkv : s.kv[a] = true) (hz : (readK s a).toNat % modulusOf m = 0) : cmdChecks (.modinv d a m) s = .noinv := by
  have htag : ∀ r ∈ sources (.modinv d a m), tagOf s r = true := List.forall_mem_singleton.2 hkv
  have hcurve : ∀ r ∈ sources (.modinv d a m), sourceOnCurve s r = true := List.forall_mem_singleton.2 rfl
  exact cmdChecks_eq_noinv hr htag hcurve (beq_iff_eq.2 hz)

/-- Settles O12: past the tag of K[a], the inverse check rejects the command. -/
theorem inverseOfZeroRaisesNoinv : Obligations.InverseOfZeroRaisesNoinv := by
  intro s d a m es h hidle hr hkv hz
  exact step_rejects h hidle ((checks_encode _ s).trans (cmdChecks_modinv_of_zero d hr hkv hz)) nofun

end Sys2Proof.Proofs
end

section
/-! SUPPORT. The relations of `42_point_arithmetic.md` R130 to R133 hold of what the machine computes: `ecAdd` gives the sum
and `ecDbl` the double, for points on the curve. -/

namespace Sys2Proof.Proofs

open Sys2Proof.Machine Sys2Proof.Laws

/-! ### Slopes and third points -/

/-- R130: a field quotient times its denominator is its numerator, whatever integers stand for the two. -/
theorem isQuotient_fDiv {a b : Nat} {num den : Int} (hnum : (num : ZMod curveP) = a) (hden : (den : ZMod curveP) = b)
    (hb : (b : ZMod curveP) ≠ 0) : IsQuotient (fDiv a b) num den := by
  have := Fact.mk curveP_prime
  rw [IsQuotient, ← ZMod.intCast_eq_intCast_iff', Int.cast_mul, Int.cast_natCast, cast_fDiv a b hb, hnum, hden,
    div_mul_cancel₀ _ hb]

/-- R132: x3 and y3, for any slope. -/
theorem exists_isThird_ecThird (lam x1 y1 x2 : Nat) :
    ∃ x y : Nat, ecThird lam x1 y1 x2 = .affine x y ∧ IsThird lam x1 y1 x2 x y := by
  refine ⟨_, _, rfl, by simp, by exact_mod_cast fSub_lt _ _, by simp, by exact_mod_cast fSub_lt _ _, ?_, ?_⟩ <;>
  · rw [← ZMod.intCast_eq_intCast_iff']
    push_cast [cast_fSub]
    rfl

theorem two_mul_y_ne_zero {x y : Nat} (h : affineOnCurve x y = true) : (2 * y : ZMod curveP) ≠ 0 := by
  have := Fact.mk curveP_prime
  obtain ⟨-, hy, -⟩ := (affineOnCurve_iff x y).1 h
  have h2 : (2 : ZMod curveP) ≠ 0 := cast_ofNat_ne_zero (c := 2) (by decide) (by decide)
  exact mul_ne_zero h2 (cast_ofNat_ne_zero (Nat.pos_of_ne_zero (y_ne_zero_of_affineOnCurve h)) hy)

/-- R132, R137: the tangent divides by 2·y1 and the chord by x2 − x1, neither of which is 0. -/
theorem isQuotient_ecSlope {x1 y1 x2 y2 : Nat} (h1 : affineOnCurve x1 y1 = true) (h2 : affineOnCurve x2 y2 = true) :
    if x1 = x2 then IsQuotient (ecSlope x1 y1 x2 y2) (3 * ((x1 : Int) * x1)) (2 * (y1 : Int))
    else IsQuotient (ecSlope x1 y1 x2 y2) ((y2 : Int) - y1) ((x2 : Int) - x1) := by
  split
  · next hx =>
    rw [ecSlope, if_pos hx]
    exact isQuotient_fDiv (by push_cast; rfl) (by simp) (by simpa using two_mul_y_ne_zero h1)
  · next hx =>
    obtain ⟨hx1, -, -⟩ := (affineOnCurve_iff x1 y1).1 h1
    obtain ⟨hx2, -, -⟩ := (affineOnCurve_iff x2 y2).1 h2
    have hne : (x2 : ZMod curveP) - x1 ≠ 0 := sub_ne_zero.2 fun h => hx ((cast_eq_iff hx2 hx1).1 h).symm
    rw [ecSlope, if_neg hx]
    exact isQuotient_fDiv (by simp [cast_fSub]) (by simp [cast_fSub]) (by rwa [cast_fSub])

/-! ### Sums, doubles and inverses -/

/-- R132: `ecAdd` is the sum of two points on the curve. -/
theorem isSum_ecAdd {p q : Point} (hp : p.onCurve = true) (hq : q.onCurve = true) : IsSum p q (ecAdd p q) := by
  cases p with
  | infinity => exact rfl
  | affine x1 y1 =>
    cases q with
    | infinity => exact rfl
    | affine x2 y2 =>
      simp only [IsSum, ecAdd]
      split
      · rfl
      · obtain ⟨x, y, hr, hthird⟩ := exists_isThird_ecThird (ecSlope x1 y1 x2 y2) x1 y1 x2
        exact ⟨_, x, y, hr, hthird, isQuotient_ecSlope hp hq⟩

/-- R133, R137: a point of the curve is not its own inverse unless it is O, so its double is by the tangent. -/
theorem isDouble_ecDbl {p : Point} (hp : p.onCurve = true) : IsDouble p (ecDbl p) := by
  cases p with
  | infinity => exact rfl
  | affine x y =>
    have hne : ¬ (y + y) % curveP = 0 := by
      rw [← cast_eq_zero_iff, Nat.cast_add, ← two_mul]
      exact two_mul_y_ne_zero hp
    have hsum := isSum_ecAdd hp hp
    simp only [IsSum, hne, and_false, if_false, if_true] at hsum
    exact ⟨y_ne_zero_of_affineOnCurve hp, hsum⟩

theorem isInfinity_of_isDouble {p r : Point} (h : IsDouble p r) : r.isInfinity = p.isInfinity := by
  cases p with
  | infinity => rw [show r = .infinity from h]
  | affine x y =>
    obtain ⟨-, _, _, _, rfl, -⟩ := h
    rfl

/-- R131, R132: the sum of a point and its negation. -/
theorem ecAdd_ecNeg {p : Point} (hp : p.onCurve = true) : ecAdd p (ecNeg p) = .infinity := by
  cases p with
  | infinity => rfl
  | affine x y =>
    obtain ⟨-, hy, -⟩ := (affineOnCurve_iff x y).1 hp
    have hzero : (y + (curveP - y) % curveP) % curveP = 0 := by
      rw [Nat.add_mod_mod, Nat.add_sub_cancel' hy.le, Nat.mod_self]
    exact if_pos ⟨rfl, hzero⟩

theorem isInfinity_pt (r : PointReg) : r.pt.isInfinity = r.inf := by
  cases h : r.inf <;> simp [PointReg.pt, h, Point.isInfinity]

/-! ### The obligations -/

/-- Settles O21: the result is `ecAdd`, by `isSum_ecAdd` the sum of R132. -/
theorem paddWritesTheSum : Obligations.PaddWritesTheSum := fun _ _ _ _ ha hb =>
  ⟨_, isSum_ecAdd (readPt_onCurve ha) (readPt_onCurve hb), rfl⟩

/-- Settles O22: the result is `ecDbl`, by `isDouble_ecDbl` the double of R133. -/
theorem pdblWritesTheDouble : Obligations.PdblWritesTheDouble := fun _ _ _ ha =>
  have hdbl := isDouble_ecDbl (readPt_onCurve ha)
  ⟨_, hdbl, (isInfinity_of_isDouble hdbl).trans (isInfinity_pt _), rfl⟩

/-- Settles O29: the sum is O, by `ecAdd_ecNeg`. -/
theorem pointPlusItsNegationIsInfinity : Obligations.PointPlusItsNegationIsInfinity := by
  intro s d a b ha hb
  have hsum : ecAdd (readPt s a) (readPt s b) = .infinity := by rw [hb, ecAdd_ecNeg (readPt_onCurve ha)]
  rw [exec, execPadd, hsum]
  exact congrArg Host.Outcome.next (finishPoint_eq d .infinity s)

end Sys2Proof.Proofs
end

section
/-! SUPPORT. Decompression (`42_point_arithmetic.md` R136 to R140): it finds the one root of the asked parity whenever there is
a root, since P is 3 modulo 4 and the two roots of one square add up to the odd number P. -/

namespace Sys2Proof.Proofs

open Sys2Proof.Machine Sys2Proof.Laws

/-! ### The roots of R136 -/

/-- Below P, the roots of x³ + 7 are the second coordinates of the curve points with this x. -/
theorem isRoot_iff_affineOnCurve {x y : Nat} (hx : x < curveP) :
    IsRoot ((x ^ 3 + 7) % curveP) y ↔ affineOnCurve x y = true := by
  have hrhs : (x ^ 3 + 7) % curveP = curveRhs x := by rw [curveRhs, curveB, pow_three']
  simp [IsRoot, affineOnCurve, hx, hrhs]

/-- R136: the roots of one square are y and P − y, and P is odd. -/
theorem affineOnCurve_unique_of_parity {x y z : Nat} (hy : affineOnCurve x y = true) (hz : affineOnCurve x z = true)
    (hpar : y % 2 = z % 2) : y = z := by
  have := Fact.mk curveP_prime
  have hy0 := y_ne_zero_of_affineOnCurve hy
  obtain ⟨-, hylt, hysq⟩ := (affineOnCurve_iff x y).1 hy
  obtain ⟨-, hzlt, hzsq⟩ := (affineOnCurve_iff x z).1 hz
  rcases sq_eq_sq_iff_eq_or_eq_neg.1 (hysq.trans hzsq.symm) with heq | hneg
  · exact (cast_eq_iff hylt hzlt).1 heq
  · have hsum : (y + z) % curveP = 0 := by rw [← cast_eq_zero_iff, Nat.cast_add, hneg, neg_add_cancel]
    have hp := Nat.eq_of_dvd_of_lt_two_mul (by omega) (Nat.dvd_of_mod_eq_zero hsum) (by omega)
    have hodd : curveP % 2 = 1 := by decide
    omega

/-- R136: for a square c = y², c^((P+1)/4) squared is y^(P+1) = c, by Fermat. -/
theorem rootCandidate_onCurve {x y : Nat} (h : affineOnCurve x y = true) :
    affineOnCurve x (rootCandidate (curveRhs x)) = true := by
  have := Fact.mk curveP_prime
  obtain ⟨hx, hy, hsq⟩ := (affineOnCurve_iff x y).1 h
  have hval : ((rootCandidate (curveRhs x) : Nat) : ZMod curveP) = ((y : ZMod curveP) ^ 2) ^ ((curveP + 1) / 4) := by
    rw [rootCandidate, powMod_eq _ _ _ (by decide), ZMod.natCast_mod, Nat.cast_pow, cast_curveRhs, hsq]
  refine (affineOnCurve_iff x _).2 ⟨hx, rootCandidate_lt _, ?_⟩
  rw [hval, ← hsq, ← pow_mul, ← pow_mul, show 2 * ((curveP + 1) / 4 * 2) = curveP + 1 by decide, pow_succ, ZMod.pow_card,
    ← pow_two]

/-! ### What decompression finds -/

/-- R138: with a root, decompression finds one. -/
theorem exists_decompress_of_affineOnCurve {x y : Nat} (f : Parity) (h : affineOnCurve x y = true) :
    ∃ z, decompress x f = some z := by
  obtain ⟨hx, -, -⟩ := (affineOnCurve_iff x y).1 h
  have hroot : rootCandidate (curveRhs x) * rootCandidate (curveRhs x) % curveP = curveRhs x := by
    have hon := rootCandidate_onCurve h
    simp only [affineOnCurve, Bool.and_eq_true, decide_eq_true_eq] at hon
    exact hon.2
  exact ⟨_, (if_neg (Nat.not_le.2 hx)).trans (if_pos hroot)⟩

theorem parityBit_eq_zero_or_one (f : Parity) : parityBit f = 0 ∨ parityBit f = 1 := by cases f <;> simp [parityBit]

/-- R138: the root found has the asked parity, since P is odd. -/
theorem decompress_parity {x y : Nat} {f : Parity} (h : decompress x f = some y) : y % 2 = parityBit f := by
  unfold decompress at h
  split at h
  · cases h
  · simp only at h
    split at h
    · cases h
      split
      · next hpar => exact hpar
      · next hpar =>
        have hlt := rootCandidate_lt (curveRhs x)
        have hodd : curveP % 2 = 1 := by decide
        have := parityBit_eq_zero_or_one f
        omega
    · cases h

/-- R136, R138: decompression finds exactly the curve point with this x and parity. -/
theorem decompress_eq_some_iff (x y : Nat) (f : Parity) :
    decompress x f = some y ↔ affineOnCurve x y = true ∧ y % 2 = parityBit f := by
  refine ⟨fun h => ⟨decompress_onCurve h, decompress_parity h⟩, fun ⟨hon, hpar⟩ => ?_⟩
  obtain ⟨z, hz⟩ := exists_decompress_of_affineOnCurve f hon
  rw [hz, affineOnCurve_unique_of_parity hon (decompress_onCurve hz) (hpar.trans (decompress_parity hz).symm)]

/-- Settles O20: by `decompress_eq_some_iff` the root found is the one root of that parity, and NONE is set when there is no
root. -/
theorem decompWritesTheRootOrNone : Obligations.DecompWritesTheRootOrNone := by
  rintro s d a f x rfl
  refine ⟨fun y hx hroot hpar => ?_, fun ⟨y, hroot⟩ hx => ?_, fun hnone => ?_⟩
  · have hy := (decompress_eq_some_iff _ y f).2 ⟨(isRoot_iff_affineOnCurve hx).1 hroot, hpar⟩
    rw [exec, execDecomp, hy]
    simp [finishPoint_eq, PointReg.ofPoint, Point.isInfinity]
  · obtain ⟨z, hz⟩ := exists_decompress_of_affineOnCurve f ((isRoot_iff_affineOnCurve hx).1 hroot)
    simp only [isRoot_iff_affineOnCurve hx]
    exact ⟨z, decompress_onCurve hz, decompress_parity hz, fun w hw hpar =>
      Option.some.inj (((decompress_eq_some_iff _ w f).2 ⟨hw, hpar⟩).symm.trans hz)⟩
  · have hy : decompress (readK s a).toNat f = none := by
      refine Option.eq_none_iff_forall_ne_some.2 fun y hy => ?_
      have hon := decompress_onCurve hy
      have hx := ((affineOnCurve_iff _ y).1 hon).1
      exact hnone.elim (Nat.not_le.2 hx) fun h => h y ((isRoot_iff_affineOnCurve hx).2 hon)
    rw [exec, execDecomp, hy]
    rfl

end Sys2Proof.Proofs
end

section
/-! SUPPORT. Scalar multiplication (`42_point_arithmetic.md` R134, R135, R152 to R157) and point equality (R160). -/

namespace Sys2Proof.Proofs

open Sys2Proof.Machine Sys2Proof.Laws

/-! ### Repeated addition -/

/-- R134, for every k. -/
theorem repeatedAdd_onCurve {p : Point} (hp : p.onCurve = true) (k : Nat) : (repeatedAdd k p).onCurve = true := by
  have := Fact.mk curveP_prime
  obtain ⟨g, hg⟩ := (onCurve_iff_represents p).1 hp
  exact (onCurve_iff_represents _).2 ⟨_, hg.repeatedAdd k⟩

theorem ecMul_readK {s : State} {b : QIdx} (hb : (readQ s b).onCurve = true) (a : KIdx) :
    ecMul (readK s a).toNat (readPt s b) = repeatedAdd (readK s a).toNat (readPt s b) :=
  ecMul_eq_repeatedAdd (readPt_onCurve hb) (readK s a).isLt

theorem exec_smul (d : QIdx) (a : KIdx) (b : QIdx) (s : State) :
    exec (.smul d a b) s = .next (finishPoint d (ecMul (readK s a).toNat (readPt s b)) s) := rfl

/-- Settles O23: doubling and adding is repeated addition. -/
theorem smulIsRepeatedAddition : Obligations.SmulIsRepeatedAddition := by
  rintro s d a b hb r rfl
  rw [exec_smul, ecMul_readK hb, finishPoint_eq]

/-- Settles O24: both multiples are on the curve, so `ecAdd` gives their sum. -/
theorem dsmulIsTheSumOfTwoMultiples : Obligations.DsmulIsTheSumOfTwoMultiples := by
  intro s d a b c e hb he
  refine ⟨_, isSum_ecAdd (repeatedAdd_onCurve (readPt_onCurve hb) _) (repeatedAdd_onCurve (readPt_onCurve he) _), ?_⟩
  rw [exec, execDsmul, ecMul_readK hb, ecMul_readK he, finishPoint_eq]

/-! ### DSMUL by three commands -/

theorem readK_finishPoint (d : QIdx) (p : Point) (s : State) (i : KIdx) : readK (finishPoint d p s) i = readK s i := rfl

theorem readPt_finishPoint_same (d : QIdx) {p : Point} (hp : p.onCurve = true) (s : State) :
    readPt (finishPoint d p s) d = p := by
  have hq : readQ (finishPoint d p s) d = .ofPoint p := (readQ_writeQ d d _ s).trans (if_pos rfl)
  rw [readPt, hq, pt_ofPoint hp]

theorem readPt_finishPoint_of_ne {d i : QIdx} (h : d ≠ i) (p : Point) (s : State) :
    readPt (finishPoint d p s) i = readPt s i :=
  congrArg PointReg.pt ((readQ_writeQ d i _ s).trans (if_neg h))

theorem readQ_finishPoint_congr (d : QIdx) (p : Point) (s u : State) :
    readQ (finishPoint d p s) d = readQ (finishPoint d p u) d :=
  ((readQ_writeQ d d _ s).trans (if_pos rfl)).trans ((readQ_writeQ d d _ u).trans (if_pos rfl)).symm

/-- Settles O25: the PADD reads the two multiples, each from the register its SMUL wrote. -/
theorem dsmulEqualsTwoSmulsAndPadd : Obligations.DsmulEqualsTwoSmulsAndPadd := by
  intro s s1 s2 s3 t d r1 r2 a b c e hb he hr hre h1 h2 h3 ht
  cases h1
  cases h2
  cases h3
  cases ht
  have hp := ecMul_onCurve (readPt_onCurve hb) (readK s a).isLt
  have hq := ecMul_onCurve (readPt_onCurve he) (readK s c).isLt
  rw [readPt_finishPoint_of_ne hre, readK_finishPoint, readPt_finishPoint_of_ne hr.symm, readPt_finishPoint_same r1 hp,
    readPt_finishPoint_same r2 hq]
  exact ⟨readQ_finishPoint_congr .., rfl, rfl, rfl⟩

/-! ### The order of the generator -/

/-- R135: N·G = O, by running the double-and-add. -/
theorem ecMul_curveN_generator : ecMul curveN (.affine curveGX curveGY) = .infinity := by decide +kernel

/-- Settles O27: the multiple is the one of `ecMul_curveN_generator`. -/
theorem orderTimesGeneratorIsInfinity : Obligations.OrderTimesGeneratorIsInfinity := by
  intro s d a b hk hb
  rw [exec_smul, hk, hb, ecMul_curveN_generator]
  exact congrArg Host.Outcome.next (finishPoint_eq d .infinity s)

theorem represents_eq_zero_iff [Fact (Nat.Prime curveP)] {p : Point} {g : secp.Point} (h : Represents p g) :
    g = 0 ↔ p.isInfinity = true := by
  cases p with
  | infinity => exact iff_of_true h rfl
  | affine x y =>
    obtain ⟨-, -, hns, rfl⟩ := h
    exact iff_of_false (WeierstrassCurve.Affine.Point.some_ne_zero hns) nofun

theorem nsmul_eq_zero_of_ecMul [Fact (Nat.Prime curveP)] {p : Point} {g : secp.Point} (hp : Represents p g) {k : Nat}
    (hk : k < 2 ^ 256) (h : ecMul k p = .infinity) : k • g = 0 := by
  have hmul := hp.ecMul hk
  rw [h] at hmul
  exact hmul

/-- R135: N is prime and N·G = O, so N is the order of G. -/
theorem addOrderOf_generator [Fact (Nat.Prime curveP)] {g : secp.Point}
    (hg : Represents (.affine curveGX curveGY) g) : addOrderOf g = curveN := by
  have := Fact.mk curveN_prime
  have hzero := nsmul_eq_zero_of_ecMul hg (by decide) ecMul_curveN_generator
  exact addOrderOf_eq_prime hzero fun h0 => nomatch (represents_eq_zero_iff hg).1 h0

/-- Settles O28: in the group, k·(j·G) = (k·j)·G, and G has order N. -/
theorem scalarsOfGeneratorMultiplesReduceModN : Obligations.ScalarsOfGeneratorMultiplesReduceModN := by
  intro s d a b j hb
  have := Fact.mk curveP_prime
  obtain ⟨g, hg⟩ := (onCurve_iff_represents _).1 generator_onCurve
  have hord := addOrderOf_generator hg
  have hpt : Represents (readPt s b) (j • g) := hb ▸ hg.repeatedAdd j
  have hmul := hpt.ecMul (readK s a).isLt
  have hmod : ((readK s a).toNat % curveN) • j • g = (readK s a).toNat • j • g := by
    rw [nsmul_left_comm, nsmul_left_comm _ j, ← hord, mod_addOrderOf_nsmul]
  have hval : ecMul (readK s a).toNat (readPt s b) = repeatedAdd ((readK s a).toNat % curveN) (readPt s b) :=
    hmul.unique (hmod ▸ hpt.repeatedAdd _)
  have hinf : (repeatedAdd ((readK s a).toNat % curveN) (readPt s b)).isInfinity =
      decide (curveN ∣ (readK s a).toNat * j) := by
    rw [← hval, Bool.eq_iff_iff, decide_eq_true_iff, ← represents_eq_zero_iff hmul, ← mul_nsmul', ← hord,
      addOrderOf_dvd_iff_nsmul_eq_zero]
  rw [exec_smul, hval, finishPoint_eq, hinf]

/-! ### PEQ -/

/-- R12, R160: two registers hold one point when both hold O, or neither does and the coordinates agree. -/
theorem pt_eq_pt_iff (p q : PointReg) : p.pt = q.pt ↔
    (p.inf = true ∧ q.inf = true) ∨ (p.inf = false ∧ q.inf = false ∧ p.x = q.x ∧ p.y = q.y) := by
  cases hp : p.inf <;> cases hq : q.inf <;> simp [PointReg.pt, hp, hq, BitVec.toNat_inj]

/-- Settles O26: EQ is the equality of the two points. -/
theorem peqComparesThePoints : Obligations.PeqComparesThePoints := by
  intro s a b
  have heq : decide (readPt s a = readPt s b) = ((s.q[a].inf && s.q[b].inf) ||
      (!s.q[a].inf && !s.q[b].inf && s.q[a].x == s.q[b].x && s.q[a].y == s.q[b].y)) := by
    rw [Bool.eq_iff_iff, decide_eq_true_iff, readPt, readPt, pt_eq_pt_iff]
    simp [readQ, and_assoc]
  rw [exec, execPeq, heq]
  rfl

end Sys2Proof.Proofs
end

section
/-! SUPPORT. The control and data-movement commands (`43_control.md` R170 to R180) and INIT (`40_parameters.md` R100): their
next state is the update of `completionOf`, then the flags, BUSY and DONE of `60_exceptions.md` R197. -/

namespace Sys2Proof.Proofs

open Sys2Proof.Machine

/-- R197, steps (1) to (3), as one next state: outside the update, a completion writes the flags, BUSY and DONE only. -/
theorem exec_eq_update (i : Instr) (s : State) : exec i s = .next { (completionOf i s).update.apply s with
    flagNone := (completionOf i s).flagNone, flagInf := (completionOf i s).flagInf
    flagEq := (completionOf i s).flagEq, inflight := none, done := true } :=
  exec_eq_completionOf i s

/-- Settles O16: NOP updates nothing, INIT raises READY, CLR clears the registers and tags. -/
theorem nopInitAndClrComplete : Obligations.NopInitAndClrComplete := fun s =>
  ⟨exec_eq_update .nop s, exec_eq_update .init s, exec_eq_update .clr s⟩

/-- Settles O18: MOVK's update writes the value of K[A], MOVQ's the triple of Q[A], whose inf bit is its INF. -/
theorem movesCopyTheRegister : Obligations.MovesCopyTheRegister := fun s dk ak dq aq =>
  ⟨exec_eq_update (.movk dk ak) s, exec_eq_update (.movq dq aq) s⟩

end Sys2Proof.Proofs
end

section
/-! SUPPORT. Acceptance, rejection and OVERRUN at a write to CMD (`60_exceptions.md` R192 to R196), and what writes DONE
(R200). -/

namespace Sys2Proof.Proofs

open Sys2Proof.Machine Sys2Proof.Laws

/-! ### The checks -/

theorem needsReady_eq_false_iff (i : Instr) : needsReady i = false ↔ i = .nop ∨ i = .init ∨ i = .clr := by
  cases i <;> simp [needsReady]

/-- The READY check is the first one of R192, so it does not ask for the sources. -/
theorem cmdChecks_eq_notinit {i : Instr} {s : State} (hr : s.ready = false) (hi : needsReady i = true) :
    cmdChecks i s = .notinit := by
  simp [cmdChecks, hr, hi]

/-- R28 speaks of the Q sources only. -/
theorem sourcesOnCurve_iff (i : Instr) (s : State) : (∀ r ∈ sources i, sourceOnCurve s r = true) ↔
    ∀ q, Src.q q ∈ sources i → (readQ s q).onCurve = true := by
  refine ⟨fun h q hq => h (.q q) hq, fun h r hr => ?_⟩
  cases r with
  | k => rfl
  | q q => exact h q hr

/-- R120: MODINV alone can lack an inverse. -/
theorem lacksInverse_eq_false_iff (s : State) (i : Instr) : lacksInverse s i = false ↔
    ∀ d a m, i = .modinv d a m → (readK s a).toNat % modulusOf m ≠ 0 := by
  cases i with
  | modinv d a m =>
    refine beq_eq_false_iff_ne.trans ⟨fun h d' a' m' he => ?_, fun h => h d a m rfl⟩
    cases he
    exact h
  | _ => exact ⟨fun _ _ _ _ => nofun, fun _ => rfl⟩

/-- Settles O9: the READY check is the first one, and it exempts NOP, INIT and CLR alone. -/
theorem commandBeforeInitRaisesNotinit : Obligations.CommandBeforeInitRaisesNotinit := by
  intro s i es h hidle hr hnop hinit hclr
  have hneeds : needsReady i = true := by
    by_contra hn
    rcases (needsReady_eq_false_iff i).1 (Bool.eq_false_of_not_eq_true hn) with hi | hi | hi
    exacts [hnop hi, hinit hi, hclr hi]
  exact step_rejects h hidle ((checks_encode i s).trans (cmdChecks_eq_notinit hr hneeds)) nofun

/-! ### A write to CMD -/

/-- A word that passes the checks starts: INFLIGHT, LASTCMD and BUSY, and nothing else (R193, R196). -/
theorem step_starts {s : State} {w : Word} {es : List Event} (h : ReceivesWrite s 0x00C w es) (hidle : Idle s)
    (hc : checks w s = .noError) : step s = .next { s with events := es, inflight := some w, lastCmd := w } := by
  obtain ⟨hi, herr⟩ := hidle
  have hsame : checks w { s with events := es } = checks w s := checks_congr w rfl rfl rfl rfl rfl
  rw [step_cmdWrite h, cmdWrite_eq, hsame]
  simp [State.busy, hi, herr, hc, start]

/-- Settles O13: each hypothesis is one of the checks. -/
theorem commandThatPassesEveryCheckStarts : Obligations.CommandThatPassesEveryCheckStarts := by
  intro s i es h hidle hr ht hq hinv
  refine step_starts h hidle ((checks_encode i s).trans ((cmdChecks_eq_noError_iff i s).2 ?_))
  exact ⟨hr.imp_right (needsReady_eq_false_iff i).2, ht, (sourcesOnCurve_iff i s).2 hq,
    (lacksInverse_eq_false_iff s i).2 hinv⟩

/-- `record` of R194 as one next state. -/
theorem record_eq (e : ErrCode) (v : Word) (s : State) : record e v s =
    { s with err := if s.err = .noError then e else s.err, errCmd := if s.err = .noError then v else s.errCmd } := by
  unfold record
  split <;> rfl

/-- Settles O14: R193 and R65 each find BUSY = 1 and record OVERRUN, with the word or with the offset. -/
theorem writeWhileBusyIsOverrun : Obligations.WriteWhileBusyIsOverrun := by
  intro s v w es hw
  have hbusy : State.busy { s with events := es } = true := by simp [State.busy, hw]
  refine ⟨fun h => ?_, fun off h4 hlo hhi h => ?_⟩
  · rw [step_cmdWrite h, cmdWrite_eq, if_pos hbusy, record_eq]
  · have hkq : inKQ off = true := (inKQ_eq_true_iff off).2 ⟨hlo, hhi⟩
    rw [step_write h h4 (by omega), windowWrite, if_pos (Bool.and_eq_true_iff.2 ⟨hbusy, hkq⟩), record_eq]

/-- Settles O6: BUSY, then ERR, then the checks decide. -/
theorem commandWriteIsCheckedThenStartedOrRejected : Obligations.CommandWriteIsCheckedThenStartedOrRejected := by
  intro s w es h
  refine ⟨fun v hv => ?_, fun hi he => ?_, step_starts h, fun hidle hc => step_rejects h hidle rfl hc⟩
  · obtain ⟨hoverrun, -⟩ := writeWhileBusyIsOverrun s w v es hv
    exact hoverrun h
  · have hfree : ¬ State.busy { s with events := es } = true := by simp [State.busy, hi]
    rw [step_cmdWrite h, cmdWrite_eq, if_neg hfree, if_neg he]

/-! ### DONE -/

/-- Settles O54: of the effects of an input, a completion and a rejection alone set DONE, and a STATUS write and the
assertion of reset alone clear it. -/
theorem doneIsSetByCompletionOrRejectionOnly : Obligations.DoneIsSetByCompletionOrRejectionOnly := by
  intro s t h
  obtain ⟨e, es, htake, heff⟩ := step_effect h
  cases heff with
  | completed w i hw hd hx =>
    obtain ⟨-, -, -, herr, -⟩ := completionChangesOnlyTheDestination _ _ _ hx
    obtain rfl := eq_apply_of_exec hx
    exact ⟨fun _ _ => .inl ⟨hw.trans_ne nofun, rfl, herr⟩, fun _ => nofun⟩
  | rejected hr hi he hc =>
    refine ⟨fun _ _ => .inr ⟨hi, he, ?_, _, es, receivesWrite_of_takes htake hr⟩, fun _ => nofun⟩
    exact ((reject_err ..).trans (if_pos he)).trans_ne hc
  | reset => exact ⟨fun _ => nofun, fun _ _ => .inr ⟨es, htake.events_eq nofun⟩⟩
  | @status _ v hr =>
    refine ⟨fun h0 h1 => by simp [h0] at h1, fun h1 h0 => .inl ⟨v, es, receivesWrite_of_takes htake hr, ?_⟩⟩
    simpa [h1] using h0
  | _ => exact ⟨fun h0 h1 => by simp [h0] at h1, fun h1 h0 => by simp [h1] at h0⟩

end Sys2Proof.Proofs
end
